-- ==== Sys2Proof/Word.lean ====
section
/-!
DEFINITION. The words of MFHD and their plainest arithmetic: a byte of the source stream (rule R10) and the 32-bit
header word (rule R11). Every quantity MFHD computes is an exact natural number (rule R13; assumption 11), so there is no
wrapping arithmetic here.
-/

namespace Sys2Proof

/-- A byte of the source stream: 8 bits, bit 7 the most significant (rule R10). -/
abbrev Byte := BitVec 8

/-- The 32-bit value of a 4-byte window, MSB first: bit 31 is bit 7 of window byte 0 (rule R11). -/
abbrev HeaderWord := BitVec 32

/-- A request's mode code `req_mode[1:0]` (rule R75). -/
abbrev ReqCode := BitVec 2

end Sys2Proof
end

