-- ==== Sys2Proof/Config.lean ====
section
/-!
DEFINITION. The configuration of MFHD (rule R8): the six parameters that are fixed when the hardware is built, as
plain data, so that a state can hold them, and the values the spec leaves free (93_implementation_defined.md I15 and
I16), as constants without a body. The parameters' DEFAULT values, the look-ups and the admissibility check of rule
R233 stand in Machine/Rom.lean.
-/

namespace Sys2Proof

/-- MPEG version (rule R27). -/
inductive Version where
  | mpeg1
  | mpeg2
  | mpeg25
deriving DecidableEq, Repr, Inhabited

/-- MPEG layer (rule R27). -/
inductive Layer where
  | I
  | II
  | III
deriving DecidableEq, Repr, Inhabited

/-- Channel mode (rule R27). -/
inductive ChannelMode where
  | stereo
  | jointStereo
  | dualChannel
  | mono
deriving DecidableEq, Repr, Inhabited

/-- Bitrate-table family: F1 for MPEG-1, F2 for MPEG-2 and MPEG-2.5 (rule R17). -/
inductive Family where
  | F1
  | F2
deriving DecidableEq, Repr

/-- How header bit 16 maps to `crcProtected` (rule R8). -/
inductive CrcPolarity where
  | zeroMeansProtected
  | oneMeansProtected
deriving DecidableEq, Repr

/-- `VERSION_MAP`: the versions of the codes `00`, `10` and `11`; code `01` has none (rule R8). -/
structure VersionMap where
  v00 : Version
  v10 : Version
  v11 : Version
deriving DecidableEq, Repr

/-- `LAYER_MAP`: the layers of the codes `01`, `10` and `11`; code `00` has none (rule R8). -/
structure LayerMap where
  l01 : Layer
  l10 : Layer
  l11 : Layer
deriving DecidableEq, Repr

/-- `CHMODE_MAP`: the channel modes of the four codes (rule R8). -/
structure ChannelModeMap where
  m00 : ChannelMode
  m01 : ChannelMode
  m10 : ChannelMode
  m11 : ChannelMode
deriving DecidableEq, Repr

/-- `BITRATE_KBPS`: one column of 14 entries (indexes 1 to 14, in kbps) per family and layer (rules R8, R30). -/
structure BitrateTable where
  f1I : Vector Nat 14
  f1II : Vector Nat 14
  f1III : Vector Nat 14
  f2I : Vector Nat 14
  f2II : Vector Nat 14
  f2III : Vector Nat 14
deriving DecidableEq, Repr

/-- `SAMPLE_RATE_HZ`: one column of 3 entries (indexes 0 to 2, in Hz) per version (rules R8, R31). -/
structure SampleRateTable where
  mpeg1 : Vector Nat 3
  mpeg2 : Vector Nat 3
  mpeg25 : Vector Nat 3
deriving DecidableEq, Repr

/-- The configuration of one MFHD (rule R8). No step writes it (rules R35, R230). -/
structure Config where
  versionMap : VersionMap
  layerMap : LayerMap
  chmodeMap : ChannelModeMap
  bitrateKbps : BitrateTable
  sampleRateHz : SampleRateTable
  crcPolarity : CrcPolarity
deriving DecidableEq, Repr

/-- The descriptor ports `d_*` of rule R60, with its widths. The three ports whose widths a configuration may widen
(`d_bitrate`, `d_sampling_rate`, `d_frame_length`) are natural numbers; their widths are `Config.bitrateWidth`,
`Config.samplingRateWidth` and `Config.frameLengthWidth` (assumption 18). -/
structure DescPorts where
  dVersion : BitVec 2
  dLayer : BitVec 2
  dCrcProtected : Bool
  dBitrate : Nat
  dSamplingRate : Nat
  dPadded : Bool
  dPrivate : BitVec 1
  dCopyright : Bool
  dOriginal : Bool
  dChannelMode : BitVec 2
  dModeExt : BitVec 2
  dEmphasis : BitVec 2
  dSampleCount : BitVec 11
  dFrameLength : Nat
deriving DecidableEq, Repr, Inhabited

/-- FREE VALUE: what the descriptor ports show while no frame commit is offered (I15, rule R60), one draw per clock
edge; `openDescPorts` cuts it to the widths of the three widenable ports. Assumption 8. -/
opaque Config.freeDescPorts : Nat → DescPorts

/-- FREE VALUE: what `dbg_dec_ok` and `dbg_dec_cause` show outside CLASSIFY or for a window with no frame sync (I16,
rule R37), one draw per clock edge. Assumption 8. -/
opaque Config.freeDecFlags : Nat → Bool × BitVec 3

/-- FREE VALUE: what `pay_data` shows while `pay_valid = 0`, one draw per clock edge: rule R60 states no value.
Assumption 8. -/
opaque Config.freePayData : Nat → BitVec 8

/-- FREE VALUE: what `obj_kind` and `obj_len` show while `obj_valid = 0`, one draw per clock edge: rule R60 states no
value (assumption 8); and what `obj_len` shows for an object too long for its 29 bits (assumption 18). -/
opaque Config.freeObjPorts : Nat → BitVec 2 × BitVec 29

end Sys2Proof
end

