-- ==== Sys2Proof/Machine/Rom.lean ====
section
/-!
DEFINITION. What MFHD reads out of its configuration: the look-ups of the six parameters (rule R8), the fixed
sample-count table (rule R32), the padding and the frame-length formula (rules R109, R110), the admissibility of a
configuration (rule R233), and the default configuration (rules R8, R30, R31).
-/

namespace Sys2Proof

/-- `VERSION_MAP(V)` for `V ≠ 01` (rule R102); the header decoder tests the code first (rule R236). -/
def Config.version (cfg : Config) (v : BitVec 2) : Version :=
  if v = 0b11#2 then cfg.versionMap.v11
  else if v = 0b10#2 then cfg.versionMap.v10
  else cfg.versionMap.v00

/-- `LAYER_MAP(L)` for `L ≠ 00` (rule R103); the header decoder tests the code first (rule R236). -/
def Config.layer (cfg : Config) (l : BitVec 2) : Layer :=
  if l = 0b11#2 then cfg.layerMap.l11
  else if l = 0b10#2 then cfg.layerMap.l10
  else cfg.layerMap.l01

/-- `CHMODE_MAP(M)` (rule R106). -/
def Config.channelMode (cfg : Config) (m : BitVec 2) : ChannelMode :=
  if m = 0b00#2 then cfg.chmodeMap.m00
  else if m = 0b01#2 then cfg.chmodeMap.m01
  else if m = 0b10#2 then cfg.chmodeMap.m10
  else cfg.chmodeMap.m11

/-- The bitrate family of a version: F1 for MPEG-1, F2 for MPEG-2 and MPEG-2.5 (rule R104). -/
def family : Version → Family
  | .mpeg1 => .F1
  | .mpeg2 => .F2
  | .mpeg25 => .F2

/-- The column `BITRATE_KBPS[fam][layer]`, indexes 1 to 14 (rule R30). -/
def Config.bitrateColumn (cfg : Config) : Family → Layer → Vector Nat 14
  | .F1, .I => cfg.bitrateKbps.f1I
  | .F1, .II => cfg.bitrateKbps.f1II
  | .F1, .III => cfg.bitrateKbps.f1III
  | .F2, .I => cfg.bitrateKbps.f2I
  | .F2, .II => cfg.bitrateKbps.f2II
  | .F2, .III => cfg.bitrateKbps.f2III

/-- The column `SAMPLE_RATE_HZ[version]`, indexes 0 to 2 (rule R31). -/
def Config.sampleRateColumn (cfg : Config) : Version → Vector Nat 3
  | .mpeg1 => cfg.sampleRateHz.mpeg1
  | .mpeg2 => cfg.sampleRateHz.mpeg2
  | .mpeg25 => cfg.sampleRateHz.mpeg25

/-- `crcProtected` from the protection bit (rule R107). -/
def Config.crcProtected (cfg : Config) (p : BitVec 1) : Bool :=
  match cfg.crcPolarity with
  | .zeroMeansProtected => p == 0#1
  | .oneMeansProtected => p == 1#1

/-- `SAMPLE_COUNT[version][layer]`: from the source, not a parameter (rules R32, R108). -/
def sampleCount : Version → Layer → Nat
  | _, .I => 384
  | _, .II => 1152
  | .mpeg1, .III => 1152
  | .mpeg2, .III => 576
  | .mpeg25, .III => 576

/-- Padding in bytes: a slot is 4 bytes in Layer I and 1 byte otherwise (rule R109). -/
def paddingBytes (padded : Bool) (layer : Layer) : Nat :=
  if padded then (if layer = .I then 4 else 1) else 0

/-- The frame length, its operations in exactly the order of rule R110: divide by 8, multiply, divide, add. -/
def frameLength (sampleCount bitRate samplingRate paddingBytes : Nat) : Nat :=
  sampleCount / 8 * bitRate / samplingRate + paddingBytes

/-- All versions. -/
def allVersions : List Version := [.mpeg1, .mpeg2, .mpeg25]

/-- All layers. -/
def allLayers : List Layer := [.I, .II, .III]

/-- Condition 5 of rule R233 for one (version, layer): every bitrate, sampling rate and padding gives at least 4. -/
def Config.lengthsOk (cfg : Config) (version : Version) (layer : Layer) : Bool :=
  (cfg.bitrateColumn (family version) layer).toList.all fun kbps =>
    (cfg.sampleRateColumn version).toList.all fun hz =>
      [false, true].all fun padded =>
        decide (4 ≤ frameLength (sampleCount version layer) (kbps * 1000) hz (paddingBytes padded layer))

/-- Conditions 1 to 3 of rule R233: the three code maps are bijections (injective, between sets of equal size). -/
def Config.mapsOk (cfg : Config) : Bool :=
  let v := cfg.versionMap
  let l := cfg.layerMap
  let m := cfg.chmodeMap
  decide ([v.v00, v.v10, v.v11].Nodup ∧ [l.l01, l.l10, l.l11].Nodup ∧ [m.m00, m.m01, m.m10, m.m11].Nodup)

/-- Condition 4 of rule R233: every table entry is a positive natural. -/
def Config.entriesOk (cfg : Config) : Bool :=
  [Family.F1, Family.F2].all (fun fam =>
      allLayers.all fun layer => (cfg.bitrateColumn fam layer).toList.all fun k => decide (0 < k))
    && allVersions.all fun v =>
      (cfg.sampleRateColumn v).toList.all fun k => decide (0 < k)

/-- The admissible configurations: the five conditions of rule R233. -/
def Config.admissible (cfg : Config) : Bool :=
  cfg.mapsOk && cfg.entriesOk
    && allVersions.all fun v =>
      allLayers.all fun l => cfg.lengthsOk v l

/-- Every bitrate that HD can answer (rule R104). -/
def Config.bitRates (cfg : Config) : List Nat :=
  allVersions.flatMap fun v => allLayers.flatMap fun l => (cfg.bitrateColumn (family v) l).toList.map (· * 1000)

/-- Every sampling rate that HD can answer (rule R105). -/
def Config.samplingRates (cfg : Config) : List Nat := allVersions.flatMap fun v => (cfg.sampleRateColumn v).toList

/-- Every frame length that HD can answer (rule R110). -/
def Config.frameLengths (cfg : Config) : List Nat :=
  allVersions.flatMap fun v => allLayers.flatMap fun l =>
    (cfg.bitrateColumn (family v) l).toList.flatMap fun kbps =>
      (cfg.sampleRateColumn v).toList.flatMap fun hz =>
        [false, true].map fun padded => frameLength (sampleCount v l) (kbps * 1000) hz (paddingBytes padded l)

/-- The number of bits that hold every value of a list, and at least `least`. -/
def widthFor (least : Nat) (values : List Nat) : Nat := values.foldr (fun v width => max (v.log2 + 1) width) least

/-- The width of `d_bitrate`: 19 bits, widened by a configuration with larger entries (rule R60; assumption 18). -/
def Config.bitrateWidth (cfg : Config) : Nat := widthFor 19 cfg.bitRates

/-- The width of `d_sampling_rate`: 16 bits, widened as above (rule R60; assumption 18). -/
def Config.samplingRateWidth (cfg : Config) : Nat := widthFor 16 cfg.samplingRates

/-- The width of `d_frame_length`: 12 bits, widened as above (rule R60; assumption 18). -/
def Config.frameLengthWidth (cfg : Config) : Nat := widthFor 12 cfg.frameLengths

/-- The default `BITRATE_KBPS` of rule R30 (from general knowledge, as that rule says). -/
def defaultBitrates : BitrateTable where
  f1I := #v[32, 64, 96, 128, 160, 192, 224, 256, 288, 320, 352, 384, 416, 448]
  f1II := #v[32, 48, 56, 64, 80, 96, 112, 128, 160, 192, 224, 256, 320, 384]
  f1III := #v[32, 40, 48, 56, 64, 80, 96, 112, 128, 160, 192, 224, 256, 320]
  f2I := #v[32, 48, 56, 64, 80, 96, 112, 128, 144, 160, 176, 192, 224, 256]
  f2II := #v[8, 16, 24, 32, 40, 48, 56, 64, 80, 96, 112, 128, 144, 160]
  f2III := #v[8, 16, 24, 32, 40, 48, 56, 64, 80, 96, 112, 128, 144, 160]

/-- The default `SAMPLE_RATE_HZ` of rule R31 (from general knowledge, as that rule says). -/
def defaultSampleRates : SampleRateTable where
  mpeg1 := #v[44100, 48000, 32000]
  mpeg2 := #v[22050, 24000, 16000]
  mpeg25 := #v[11025, 12000, 8000]

/-- The default configuration of rule R8. Assumption 1. -/
def Config.default : Config where
  versionMap := ⟨.mpeg25, .mpeg2, .mpeg1⟩
  layerMap := ⟨.III, .II, .I⟩
  chmodeMap := ⟨.stereo, .jointStereo, .dualChannel, .mono⟩
  bitrateKbps := defaultBitrates
  sampleRateHz := defaultSampleRates
  crcPolarity := .zeroMeansProtected

end Sys2Proof
end

