-- ==== Sys2Proof/Syntax.lean ====
section
/-!
DEFINITION. What MFHD decodes. MFHD runs no program (rule R63): its opcode table lists the request codes CON may offer
and the classes a 4-byte window falls into (rules R75, R80), and `Instr` has one constructor for each of its 17 rows.
Beside it: the fields of a frame header (rule R70), the rejection causes (rule R77) and the Frame Descriptor that the
header decoder produces (rule R27).
-/

namespace Sys2Proof

/-- The fields of a frame header below the version and layer codes, as raw unsigned codes (rules R70, R101). The
letter of rule R70 stands behind each. -/
structure FrameFields where
  /-- P, `h[16]` -/
  crc : BitVec 1
  /-- R, `h[15:12]` -/
  bitrate : BitVec 4
  /-- F, `h[11:10]` -/
  rate : BitVec 2
  /-- D, `h[9]` -/
  padding : BitVec 1
  /-- X, `h[8]` -/
  priv : BitVec 1
  /-- M, `h[7:6]` -/
  channel : BitVec 2
  /-- E, `h[5:4]` -/
  modeExt : BitVec 2
  /-- C, `h[3]` -/
  copyright : BitVec 1
  /-- O, `h[2]` -/
  original : BitVec 1
  /-- H, `h[1:0]` -/
  emphasis : BitVec 2
deriving DecidableEq, Repr

/-- The instructions: one constructor per row of the opcode table. The first four are requests, decoded from
`req_mode[1:0]` in state IDLE; the others are window classes, decoded from the 4-byte window in state CLASSIFY. A frame
row is one pair of codes `h[20:17]`; its name gives the version and layer of that pair under the default `VERSION_MAP`
and `LAYER_MAP`, as the opcode table's notes say (assumption 2). -/
inductive Instr where
  /-- SCAN, code `00` (R151) -/
  | scan
  /-- SCAN.FRAME, code `01` (R151, R164) -/
  | scanFrame
  /-- SCAN.ID3V2, code `10` (R151, R164) -/
  | scanId3v2
  /-- reserved-request, code `11` (R151) -/
  | reservedRequest
  /-- TAG: window `54 41 47 w3` (R154) -/
  | tag (w3 : Byte)
  /-- ID3: window `49 44 33 w3` (R155) -/
  | id3 (w3 : Byte)
  /-- FRAME.MPEG1.LIII: codes `V = 11`, `L = 01` (R158) -/
  | frameMpeg1LIII (f : FrameFields)
  /-- FRAME.MPEG1.LII: codes `V = 11`, `L = 10` (R158) -/
  | frameMpeg1LII (f : FrameFields)
  /-- FRAME.MPEG1.LI: codes `V = 11`, `L = 11` (R158) -/
  | frameMpeg1LI (f : FrameFields)
  /-- FRAME.MPEG2.LIII: codes `V = 10`, `L = 01` (R158) -/
  | frameMpeg2LIII (f : FrameFields)
  /-- FRAME.MPEG2.LII: codes `V = 10`, `L = 10` (R158) -/
  | frameMpeg2LII (f : FrameFields)
  /-- FRAME.MPEG2.LI: codes `V = 10`, `L = 11` (R158) -/
  | frameMpeg2LI (f : FrameFields)
  /-- FRAME.MPEG25.LIII: codes `V = 00`, `L = 01` (R158) -/
  | frameMpeg25LIII (f : FrameFields)
  /-- FRAME.MPEG25.LII: codes `V = 00`, `L = 10` (R158) -/
  | frameMpeg25LII (f : FrameFields)
  /-- FRAME.MPEG25.LI: codes `V = 00`, `L = 11` (R158) -/
  | frameMpeg25LI (f : FrameFields)
  /-- FALSE_SYNC: frame sync, and the low 21 header bits are rejected by the header decoder (R159) -/
  | falseSync (bits : BitVec 21)
  /-- NOMATCH: any other window (R160) -/
  | noMatch (w : HeaderWord)
deriving DecidableEq, Repr

/-- The two forms in which an instruction is encoded: a request code that CON offers, or the window. -/
inductive Encoded where
  | request (c : ReqCode)
  | window (w : HeaderWord)
deriving DecidableEq, Repr

/-- Rejection causes 1 to 6 of rule R77. -/
inductive Cause where
  | badVersion
  | badLayer
  | badBitrate
  | badSampleRate
  | badModeExt
  | badEmphasis
deriving DecidableEq, Repr

/-- The Frame Descriptor (rule R27). The payload is not a field of it: SC attaches it (90_conflicts.md C5). -/
structure FrameDescriptor where
  version : Version
  layer : Layer
  protectionBit : BitVec 1
  crcProtected : Bool
  /-- bits per second -/
  bitRate : Nat
  /-- Hz -/
  samplingRate : Nat
  padded : Bool
  privateBit : BitVec 1
  channelMode : ChannelMode
  modeExtension : BitVec 2
  copyright : Bool
  original : Bool
  emphasis : BitVec 2
  sampleCount : Nat
  /-- total frame bytes, the 4 header bytes included -/
  frameLength : Nat
deriving DecidableEq, Repr

end Sys2Proof
end

