-- ==== Sys2Proof/Machine/Operands.lean ====
section
/-!
DEFINITION. Operand forms: how the header word is made of the window's bytes (rule R11), where each header field
stands in it (rules R70, R101), how a header is put together again from its fields, the signatures of rules R71, R78
and R79, and the synchsafe size of rule R157.
-/

namespace Sys2Proof

/-- The header word of four bytes, the first the most significant (rule R11). -/
def headerWord (b0 b1 b2 b3 : Byte) : HeaderWord := b0 ++ b1 ++ b2 ++ b3

/-- Byte `k` of a header word, `k = 0` the most significant (rule R11). -/
def headerByte (h : HeaderWord) (k : Nat) : Byte := h.extractLsb' (8 * (3 - k)) 8

/-- V, `h[20:19]` (rule R101). -/
def versionCode (h : HeaderWord) : BitVec 2 := h.extractLsb' 19 2

/-- L, `h[18:17]` (rule R101). -/
def layerCode (h : HeaderWord) : BitVec 2 := h.extractLsb' 17 2

/-- The other fields of the header (rule R101). -/
def fieldsOf (h : HeaderWord) : FrameFields where
  crc := h.extractLsb' 16 1
  bitrate := h.extractLsb' 12 4
  rate := h.extractLsb' 10 2
  padding := h.extractLsb' 9 1
  priv := h.extractLsb' 8 1
  channel := h.extractLsb' 6 2
  modeExt := h.extractLsb' 4 2
  copyright := h.extractLsb' 3 1
  original := h.extractLsb' 2 1
  emphasis := h.extractLsb' 0 2

/-- The header with frame sync, version code `v`, layer code `l` and the fields `f`: the pattern of rule R70. -/
def frameWord (v l : BitVec 2) (f : FrameFields) : HeaderWord :=
  0b11111111111#11 ++ v ++ l ++ f.crc ++ f.bitrate ++ f.rate ++ f.padding ++ f.priv ++ f.channel ++ f.modeExt
    ++ f.copyright ++ f.original ++ f.emphasis

/-- The header with frame sync and the low 21 bits `bits`. -/
def syncWord (bits : BitVec 21) : HeaderWord := 0b11111111111#11 ++ bits

/-- Frame sync: `h[31:21]` all ones (rule R71). -/
def hasSync (h : HeaderWord) : Bool := h.extractLsb' 21 11 == 0b11111111111#11

/-- The three bytes "TAG" (rule R78). -/
def tagSignature : BitVec 24 := 0x544147#24

/-- The three bytes "ID3" (rule R79). -/
def id3Signature : BitVec 24 := 0x494433#24

/-- Window bytes 0 to 2 (rule R80). -/
def signature (h : HeaderWord) : BitVec 24 := h.extractLsb' 8 24

/-- The synchsafe size of four bytes: 7 bits of each, MSB first, bit 7 ignored (rules R79, R157). -/
def synchsafe (s6 s7 s8 s9 : Byte) : Nat :=
  2 ^ 21 * (s6 &&& 0x7F#8).toNat + 2 ^ 14 * (s7 &&& 0x7F#8).toNat + 2 ^ 7 * (s8 &&& 0x7F#8).toNat
    + (s9 &&& 0x7F#8).toNat

end Sys2Proof
end

