-- ==== Sys2Proof/WellFormed.lean ====
section
/-!
DEFINITION. Well-formed instructions: the operands that an instruction's row of the opcode table admits. For a frame
row these are the validity tests of rule R113; a false sync must fail one of them (rule R159); a NOMATCH window has none
of the signatures (rule R160).
-/

namespace Sys2Proof

/-- The validity tests of rule R113 that concern the fields below version and layer. -/
def FrameFields.valid (cfg : Config) (f : FrameFields) : Bool :=
  f.bitrate != 0#4 && f.bitrate != 15#4 && f.rate != 3#2
    && (f.modeExt == 0#2 || cfg.channelMode f.channel == .jointStereo) && f.emphasis != 0b10#2

/-- The six validity tests of rule R113 on a header word. -/
def headerValid (cfg : Config) (h : HeaderWord) : Bool :=
  versionCode h != 0b01#2 && layerCode h != 0b00#2 && (fieldsOf h).valid cfg

/-- The operands an instruction admits under a configuration. -/
def Instr.wf (cfg : Config) : Instr → Bool
  | .scan => true
  | .scanFrame => true
  | .scanId3v2 => true
  | .reservedRequest => true
  | .tag _ => true
  | .id3 _ => true
  | .frameMpeg1LIII f => f.valid cfg
  | .frameMpeg1LII f => f.valid cfg
  | .frameMpeg1LI f => f.valid cfg
  | .frameMpeg2LIII f => f.valid cfg
  | .frameMpeg2LII f => f.valid cfg
  | .frameMpeg2LI f => f.valid cfg
  | .frameMpeg25LIII f => f.valid cfg
  | .frameMpeg25LII f => f.valid cfg
  | .frameMpeg25LI f => f.valid cfg
  | .falseSync bits => !headerValid cfg (syncWord bits)
  | .noMatch w => signature w != tagSignature && signature w != id3Signature && !hasSync w

end Sys2Proof
end

