-- ==== Sys2Proof/Decode.lean ====
section
/-!
DEFINITION. The decoders of MFHD and the encoder. HD, the header decoder, is the pure function of rules R100 to R116:
one definition per rule, put together in `decodeFields` and `decodeHeader` in the order of rule R111. The window
classifier is rule R80, the request decoder rule R75. Every window and every request code has exactly one class, so
these are total; only a byte string of the wrong length, or a request byte above 3, is rejected, by name.
-/

namespace Sys2Proof

/-- Version check and mapping (rule R102). -/
def hdVersion (cfg : Config) (v : BitVec 2) : Except Cause Version :=
  if v = 0b01#2 then .error .badVersion else .ok (cfg.version v)

/-- Layer check and mapping (rule R103). -/
def hdLayer (cfg : Config) (l : BitVec 2) : Except Cause Layer :=
  if l = 0b00#2 then .error .badLayer else .ok (cfg.layer l)

/-- Bitrate check and look-up, in bits per second (rule R104). The table cannot be indexed with an unchecked value
(rule R236): the look-up takes the failed test's evidence. -/
def hdBitRate (cfg : Config) (version : Version) (layer : Layer) (r : BitVec 4) : Except Cause Nat :=
  if h : r.toNat = 0 ∨ r.toNat = 15 then .error .badBitrate
  else .ok ((cfg.bitrateColumn (family version) layer)[r.toNat - 1]'(by omega) * 1000)

/-- Sampling-rate check and look-up, in Hz (rule R105); checked before it is indexed (rule R236). -/
def hdSamplingRate (cfg : Config) (version : Version) (f : BitVec 2) : Except Cause Nat :=
  if h : f.toNat = 3 then .error .badSampleRate
  else .ok ((cfg.sampleRateColumn version)[f.toNat]'(by omega))

/-- Channel mode and mode-extension consistency (rule R106). -/
def hdChannelMode (cfg : Config) (m e : BitVec 2) : Except Cause ChannelMode :=
  if e ≠ 0b00#2 ∧ cfg.channelMode m ≠ .jointStereo then .error .badModeExt else .ok (cfg.channelMode m)

/-- Emphasis check (rule R107). -/
def hdEmphasis (h : BitVec 2) : Except Cause (BitVec 2) :=
  if h = 0b10#2 then .error .badEmphasis else .ok h

/-- HD on the codes of a header, in the order of rule R111: the first failing test gives the cause. -/
def decodeFields (cfg : Config) (v l : BitVec 2) (f : FrameFields) : Except Cause FrameDescriptor := do
  let version ← hdVersion cfg v
  let layer ← hdLayer cfg l
  let bitRate ← hdBitRate cfg version layer f.bitrate
  let samplingRate ← hdSamplingRate cfg version f.rate
  let channelMode ← hdChannelMode cfg f.channel f.modeExt
  let emphasis ← hdEmphasis f.emphasis
  let padded := f.padding == 1#1
  return {
    version, layer, bitRate, samplingRate, padded, channelMode, emphasis
    protectionBit := f.crc
    crcProtected := cfg.crcProtected f.crc
    privateBit := f.priv
    modeExtension := f.modeExt
    copyright := f.copyright == 1#1
    original := f.original == 1#1
    sampleCount := sampleCount version layer
    frameLength := frameLength (sampleCount version layer) bitRate samplingRate (paddingBytes padded layer) }

/-- HD on a header word (rule R111). `h[31:21]` is not read (rule R114). -/
def decodeHeader (cfg : Config) (h : HeaderWord) : Except Cause FrameDescriptor :=
  decodeFields cfg (versionCode h) (layerCode h) (fieldsOf h)

/-- `decode(b0, b1, b2, b3)`, HD on four bytes (rule R100). -/
def hd (cfg : Config) (b0 b1 b2 b3 : Byte) : Except Cause FrameDescriptor := decodeHeader cfg (headerWord b0 b1 b2 b3)

/-- The frame row of a pair of version and layer codes (rule R80); the reserved codes have none (rules R72, R73). -/
def frameRow (v l : BitVec 2) (f : FrameFields) : Option Instr :=
  match v.toNat, l.toNat with
  | 3, 1 => some (.frameMpeg1LIII f)
  | 3, 2 => some (.frameMpeg1LII f)
  | 3, 3 => some (.frameMpeg1LI f)
  | 2, 1 => some (.frameMpeg2LIII f)
  | 2, 2 => some (.frameMpeg2LII f)
  | 2, 3 => some (.frameMpeg2LI f)
  | 0, 1 => some (.frameMpeg25LIII f)
  | 0, 2 => some (.frameMpeg25LII f)
  | 0, 3 => some (.frameMpeg25LI f)
  | _, _ => none

/-- A window with frame sync: a frame where HD answers Ok, a false sync where it rejects (rules R158, R159). -/
def decodeSync (cfg : Config) (w : HeaderWord) : Instr :=
  match decodeHeader cfg w, frameRow (versionCode w) (layerCode w) (fieldsOf w) with
  | .ok _, some i => i
  | _, _ => .falseSync (w.extractLsb' 0 21)

/-- The class of a window, the tests in the order of rule R80. -/
def decodeWindow (cfg : Config) (w : HeaderWord) : Instr :=
  if signature w = tagSignature then .tag (headerByte w 3)
  else if signature w = id3Signature then .id3 (headerByte w 3)
  else if hasSync w then decodeSync cfg w
  else .noMatch w

/-- The request of a mode code (rule R75). -/
def decodeRequest (c : ReqCode) : Instr :=
  if c = 0b00#2 then .scan
  else if c = 0b01#2 then .scanFrame
  else if c = 0b10#2 then .scanId3v2
  else .reservedRequest

/-- The instruction of an encoded form. -/
def decode (cfg : Config) : Encoded → Instr
  | .request c => decodeRequest c
  | .window w => decodeWindow cfg w

/-- Why a byte string is no instruction. -/
inductive DecodeError where
  /-- A window has exactly 4 bytes (rule R21). -/
  | windowIsNotFourBytes
  /-- A request is one byte here. -/
  | requestIsNotOneByte
  /-- A request code has 2 bits (rule R75). -/
  | requestCodeAboveThree
deriving DecidableEq, Repr

/-- The window class of a byte string, in stream order. -/
def decodeWindowBytes (cfg : Config) : List Byte → Except DecodeError Instr
  | [b0, b1, b2, b3] => .ok (decodeWindow cfg (headerWord b0 b1 b2 b3))
  | _ => .error .windowIsNotFourBytes

/-- The request of a byte whose low two bits are the mode code and whose other bits are 0. -/
def decodeRequestBytes : List Byte → Except DecodeError Instr
  | [b] => if b.toNat < 4 then .ok (decodeRequest (b.setWidth 2)) else .error .requestCodeAboveThree
  | _ => .error .requestIsNotOneByte

/-- The encoded form of an instruction, from rules R70, R75, R78, R79 and R80. -/
def encode : Instr → Encoded
  | .scan => .request 0b00#2
  | .scanFrame => .request 0b01#2
  | .scanId3v2 => .request 0b10#2
  | .reservedRequest => .request 0b11#2
  | .tag w3 => .window (tagSignature ++ w3)
  | .id3 w3 => .window (id3Signature ++ w3)
  | .frameMpeg1LIII f => .window (frameWord 0b11#2 0b01#2 f)
  | .frameMpeg1LII f => .window (frameWord 0b11#2 0b10#2 f)
  | .frameMpeg1LI f => .window (frameWord 0b11#2 0b11#2 f)
  | .frameMpeg2LIII f => .window (frameWord 0b10#2 0b01#2 f)
  | .frameMpeg2LII f => .window (frameWord 0b10#2 0b10#2 f)
  | .frameMpeg2LI f => .window (frameWord 0b10#2 0b11#2 f)
  | .frameMpeg25LIII f => .window (frameWord 0b00#2 0b01#2 f)
  | .frameMpeg25LII f => .window (frameWord 0b00#2 0b10#2 f)
  | .frameMpeg25LI f => .window (frameWord 0b00#2 0b11#2 f)
  | .falseSync bits => .window (syncWord bits)
  | .noMatch w => .window w

/-- The instruction of a table word under the default configuration: a row of at most one byte is a request code, any
other a window of four bytes, the first the most significant (rules R11, R75; assumption 6). -/
def decodeTableWord (nbits w : Nat) : Option Instr :=
  if 0 < nbits ∧ nbits ≤ 8 then (if w < 4 then some (decodeRequest (BitVec.ofNat 2 w)) else none)
  else if w < 2 ^ 32 then some (decodeWindow Config.default (BitVec.ofNat 32 w)) else none

end Sys2Proof
end

