-- ==== Sys2Proof/Machine/State.lean ====
section
/-!
DEFINITION. The state of MFHD at the transaction level (file 10_state.md): the registers of rules R20 to R29, the
output history of rule R34, the configuration and ROM tables of rules R8 and R30 to R32, and, as plain data that the
step reads, what the two external agents SRC and CON are about to do (rules R7, R51, R58, R59, R230; assumption 3).
Why a step can stop: `Fault` and `Refusal`. `State.reset` is rule R36.
-/

namespace Sys2Proof.Machine

/-- `st`, the control state (rule R20). -/
inductive Ctl where
  | idle
  | fill
  | classify
  | shift
  | id3hdr
  | body
  | done
  | eosr
deriving DecidableEq, Repr

/-- `mode`, the filter mode of the request in progress (rule R23). -/
inductive Mode where
  | any
  | frameOnly
  | id3v2Only
deriving DecidableEq, Repr

/-- `kind`, the kind of object being assembled (rule R24). -/
inductive Kind where
  | none
  | frame
  | id3v1
  | id3v2
deriving DecidableEq, Repr

/-- `W[0..3]`, the window: four 8-bit registers, `w0` the oldest (rule R21). -/
structure Window where
  w0 : Byte
  w1 : Byte
  w2 : Byte
  w3 : Byte
deriving DecidableEq, Repr

/-- A scanned object (rule R33). -/
inductive Obj where
  | frame (d : FrameDescriptor) (p : List Byte)
  | legacyTag (p : List Byte)
  | extendedTag (p : List Byte)
  | endOfStream
deriving DecidableEq, Repr

/-- SRC's answer to one `SrcRead()` (rule R51). -/
inductive SrcAnswer where
  | byte (b : Byte)
  | ended
deriving DecidableEq, Repr

/-- The state of MFHD and of what its environment is about to do. -/
structure State where
  /-- the configuration and the ROM tables, fixed when the hardware is built (R8, R30, R31, R35) -/
  cfg : Config
  /-- `st`, the control state (R20) -/
  st : Ctl
  /-- `W[0..3]`, the window (R21) -/
  w : Window
  /-- `n`, the fill count, 0 to 4 (R22) -/
  n : Nat
  /-- `mode`, the filter mode (R23) -/
  mode : Mode
  /-- `kind`, the kind of object (R24) -/
  kind : Kind
  /-- `need`, the object bytes still to read (R25) -/
  need : Nat
  /-- `buf`, the object buffer (R26) -/
  buf : List Byte
  /-- `desc`, the descriptor register; `none` is the spec's `NONE` (R28) -/
  desc : Option FrameDescriptor
  /-- `pos`, the bytes taken from SRC since reset (R29) -/
  pos : Nat
  /-- `outs`, the objects emitted since reset, oldest first (R34) -/
  outs : List Obj
  /-- ENVIRONMENT: the answers SRC is about to give, next first; empty: it has not answered yet (R51, R53) -/
  src : List SrcAnswer
  /-- ENVIRONMENT: the mode codes of the requests CON offers, next first (R59) -/
  req : List ReqCode
  /-- ENVIRONMENT: how many emissions CON is ready to accept; 0: it has not accepted yet (R58) -/
  acks : Nat
  /-- ENVIRONMENT: whether reset is taken at each of the coming steps, next first; past its end, no reset (R230) -/
  rst : List Bool
deriving DecidableEq, Repr

/-- Why the machine stops with a fault. The spec names no fault (93_implementation_defined.md, opening of the file):
each constructor names a state that no rule of 41_scanner.md gives a step, and that no run reaches (the invariant of
Safety.lean rules all four out). Assumption 5. -/
inductive Fault where
  /-- FILL takes a byte with `n ≥ 4`: rule R152 says `n < 4` always holds there. Raised by `fillStep`. Safe. -/
  | fillCountAboveThree
  /-- ID3HDR or BODY takes a byte with `need = 0`: rules R156 and R162 have `need ≥ 1`, and rule R13 subtracts only
  where it is shown. Raised by `id3HdrStep` and `bodyStep`. Safe. -/
  | nothingNeeded
  /-- ID3HDR takes header byte 9 with fewer than 9 bytes in `buf`: rule R156 reads `buf[6..8]`. Raised by
  `id3HdrStep`. Safe. -/
  | headerBytesMissing
  /-- DONE accepts a frame with `desc = NONE`: rule R163 emits `Frame(desc, buf)`. Raised by `doneStep`. Safe. -/
  | frameWithoutDescriptor
deriving DecidableEq, Repr

/-- Why the model has no step. -/
inductive Refusal where
  /-- An instruction with no meaning yet. Raised by no arm of `exec`: every instruction is modelled. Safe. -/
  | notModelled (mnemonic : String)
  /-- A request with the reserved mode code `11` (rules R59, R151, I10). Raised by `execReservedRequest`. Safe. -/
  | reservedRequestMode
  /-- A configuration that rule R233 does not admit (I11). Raised by `step`. Safe. -/
  | inadmissibleConfiguration
deriving DecidableEq, Repr

/-- The state after reset (rule R36; assumption 10), with the default configuration of rule R8 (assumption 1) and an
environment that has not yet offered a byte, a request, an acceptance or a reset. -/
def State.reset : State where
  cfg := Config.default
  st := .idle
  w := ⟨0x00#8, 0x00#8, 0x00#8, 0x00#8⟩
  n := 0
  mode := .any
  kind := .none
  need := 0
  buf := []
  desc := none
  pos := 0
  outs := []
  src := []
  req := []
  acks := 0
  rst := []

end Sys2Proof.Machine
end

