-- ==== Sys2Proof/Machine/Ops.lean ====
section
/-!
DEFINITION. The shared operations of SC: the primitives of rule R15 (`SrcRead`, `Emit`, `goto_eos`) and the register
updates that several rules share. `gotoEos` is MFHD's counterpart of taking an exception (rule R204), and `eosrStep` in
Scanner.lean its return (rule R205).
-/

namespace Sys2Proof.Machine

/-- The outcome of a step of this machine. -/
abbrev Result := Host.Outcome State Fault Refusal

/-- The four window bytes in stream order. -/
def Window.bytes (w : Window) : List Byte := [w.w0, w.w1, w.w2, w.w3]

/-- The header word of the window (rule R11). -/
def Window.word (w : Window) : HeaderWord := headerWord w.w0 w.w1 w.w2 w.w3

/-- The window whose header word is `h` (rule R11). -/
def Window.ofWord (h : HeaderWord) : Window := ⟨headerByte h 0, headerByte h 1, headerByte h 2, headerByte h 3⟩

/-- `W[k] <- b` (rule R15); the window has no byte 4 or above. -/
def Window.write (w : Window) (k : Nat) (b : Byte) : Window :=
  match k with
  | 0 => { w with w0 := b }
  | 1 => { w with w1 := b }
  | 2 => { w with w2 := b }
  | 3 => { w with w3 := b }
  | _ => w

/-- The window shifted by one byte, `b` the newest (rule R161). -/
def Window.shiftIn (w : Window) (b : Byte) : Window := ⟨w.w1, w.w2, w.w3, b⟩

/-- A step that holds: it waits for SRC, CON or a request and changes no state (rule R16; assumption 13). -/
def hold (s : State) : Result := .next s

/-- The object registers as they are before any byte of an object is recognised (rules R151, R163, R204). -/
def clearObject (s : State) : State := { s with kind := .none, desc := none, buf := [], need := 0 }

/-- The start of a window fill (rules R151, R163). -/
def startFill (s : State) : State := { clearObject s with n := 0, st := .fill }

/-- `goto_eos()`, the entry into end-of-stream: the partial object is discarded; `mode`, `W`, `n` and `pos` are kept
(rule R204). -/
def gotoEos (s : State) : State := { clearObject s with st := .eosr }

/-- One `SrcRead()` and what the step does with its answer (rules R51, R53; assumption 12): no answer yet, the step
holds; `End`, the end-of-stream path in the same step (rules R203, R204); a byte, it leaves the source, `pos` counts
it (rule R29), and the step goes on. -/
def withSrcRead (s : State) (onByte : Byte → State → Result) : Result :=
  match s.src with
  | [] => hold s
  | .ended :: rest => .next (gotoEos { s with src := rest })
  | .byte b :: rest => onByte b { s with src := rest, pos := s.pos + 1 }

/-- `Emit(o)` and the return to IDLE: the step holds until CON accepts; then `o` joins the history (rules R58, R163,
R205). -/
def emit (o : Obj) (s : State) : Result :=
  match s.acks with
  | 0 => hold s
  | k + 1 => .next { s with outs := s.outs ++ [o], acks := k, st := .idle }

/-- Reset sets every register to its value of rule R36. The configuration, and what SRC and CON are about to do, are
not MFHD's registers (rule R230). -/
def resetRegs (s : State) : State :=
  { s with
    st := .idle, w := ⟨0x00#8, 0x00#8, 0x00#8, 0x00#8⟩, n := 0, mode := .any, kind := .none, need := 0, buf := []
    desc := none, pos := 0, outs := [] }

/-- What SC decodes in this state: in IDLE the offered request, if any; in CLASSIFY the window; in every other state
nothing (rules R151, R153). -/
def fetch (s : State) : Option Encoded :=
  match s.st with
  | .idle => s.req.head?.map .request
  | .classify => some (.window s.w.word)
  | _ => none

/-- An instruction's action, taken where the instruction is enabled: where it is what SC decodes in this state.
Elsewhere the step is not taken and nothing changes (the Enabled lines of rules R151 to R160; assumption 4). -/
def whenEnabled (i : Instr) (s : State) (action : State → Result) : Result :=
  if fetch s = some (encode i) then action s else hold s

/-- ACCEPT of a request with filter mode `m`: the request is taken from CON, and a fresh fill begins (rule R151). -/
def accept (m : Mode) (s : State) : Result := .next { startFill s with mode := m, req := s.req.tail }

/-- The NOMATCH action (rule R160). -/
def noMatch (s : State) : Result := .next { s with st := .shift }

/-- The FRAME match with descriptor `d` (rule R158). -/
def frameMatch (d : FrameDescriptor) (s : State) : Result :=
  .next { s with
    kind := .frame, desc := some d, buf := s.w.bytes, need := d.frameLength - 4
    st := if d.frameLength - 4 = 0 then .done else .body }

/-- A window of the frame row with codes `v` and `l`: the FRAME match where HD answers Ok, and a false sync where it
rejects (rules R158, R159). -/
def classifyFrame (v l : BitVec 2) (f : FrameFields) (s : State) : Result :=
  match decodeFields s.cfg v l f with
  | .ok d => frameMatch d s
  | .error _ => noMatch s

/-- `accepts(mode, kind)` of rule R163. -/
def accepts : Mode → Kind → Bool
  | .any, _ => true
  | .frameOnly, k => k == .frame
  | .id3v2Only, k => k == .id3v2

end Sys2Proof.Machine
end

