-- ==== Sys2Proof/Machine/Frames.lean ====
section
/-!
DEFINITION. The nine frame rows: CLASSIFY's step c (rules R158, R159), one definition per pair of version and layer
codes `h[20:17]`, over the shared `classifyFrame`.
-/

namespace Sys2Proof.Machine

/-- FRAME.MPEG1.LIII: `V = 11`, `L = 01` (R158, R159). -/
def execFrameMpeg1LIII (f : FrameFields) (s : State) : Result :=
  whenEnabled (.frameMpeg1LIII f) s (classifyFrame 0b11#2 0b01#2 f)

/-- FRAME.MPEG1.LII: `V = 11`, `L = 10` (R158, R159). -/
def execFrameMpeg1LII (f : FrameFields) (s : State) : Result :=
  whenEnabled (.frameMpeg1LII f) s (classifyFrame 0b11#2 0b10#2 f)

/-- FRAME.MPEG1.LI: `V = 11`, `L = 11` (R158, R159). -/
def execFrameMpeg1LI (f : FrameFields) (s : State) : Result :=
  whenEnabled (.frameMpeg1LI f) s (classifyFrame 0b11#2 0b11#2 f)

/-- FRAME.MPEG2.LIII: `V = 10`, `L = 01` (R158, R159). -/
def execFrameMpeg2LIII (f : FrameFields) (s : State) : Result :=
  whenEnabled (.frameMpeg2LIII f) s (classifyFrame 0b10#2 0b01#2 f)

/-- FRAME.MPEG2.LII: `V = 10`, `L = 10` (R158, R159). -/
def execFrameMpeg2LII (f : FrameFields) (s : State) : Result :=
  whenEnabled (.frameMpeg2LII f) s (classifyFrame 0b10#2 0b10#2 f)

/-- FRAME.MPEG2.LI: `V = 10`, `L = 11` (R158, R159). -/
def execFrameMpeg2LI (f : FrameFields) (s : State) : Result :=
  whenEnabled (.frameMpeg2LI f) s (classifyFrame 0b10#2 0b11#2 f)

/-- FRAME.MPEG25.LIII: `V = 00`, `L = 01` (R158, R159). -/
def execFrameMpeg25LIII (f : FrameFields) (s : State) : Result :=
  whenEnabled (.frameMpeg25LIII f) s (classifyFrame 0b00#2 0b01#2 f)

/-- FRAME.MPEG25.LII: `V = 00`, `L = 10` (R158, R159). -/
def execFrameMpeg25LII (f : FrameFields) (s : State) : Result :=
  whenEnabled (.frameMpeg25LII f) s (classifyFrame 0b00#2 0b10#2 f)

/-- FRAME.MPEG25.LI: `V = 00`, `L = 11` (R158, R159). -/
def execFrameMpeg25LI (f : FrameFields) (s : State) : Result :=
  whenEnabled (.frameMpeg25LI f) s (classifyFrame 0b00#2 0b11#2 f)

end Sys2Proof.Machine
end

