-- ==== Sys2Proof/Machine/Requests.lean ====
section
/-!
DEFINITION. The requests: the four codes of rule R75, accepted in state IDLE (rule R151). The whole operations of rule
R164 follow from `mode` and the DONE step.
-/

namespace Sys2Proof.Machine

/-- SCAN: the generic scan, filter mode ANY (R151). -/
def execScan (s : State) : Result := whenEnabled .scan s (accept .any)

/-- SCAN.FRAME: next audio frame only, filter mode FRAME_ONLY (R151, R164). -/
def execScanFrame (s : State) : Result := whenEnabled .scanFrame s (accept .frameOnly)

/-- SCAN.ID3V2: next extended tag only, filter mode ID3V2_ONLY (R151, R164). -/
def execScanId3v2 (s : State) : Result := whenEnabled .scanId3v2 s (accept .id3v2Only)

/-- reserved-request: refused; the model has no step for it (R59, R151; assumption 9). -/
def execReservedRequest (_s : State) : Result := .refused .reservedRequestMode

end Sys2Proof.Machine
end

