-- ==== Sys2Proof/Machine/Resync.lean ====
section
/-!
DEFINITION. The windows that are no object: a false sync and a NOMATCH, both of which advance one byte (rules R159,
R160).
-/

namespace Sys2Proof.Machine

/-- FALSE_SYNC: frame sync whose header HD rejects; the action of rule R160 (R159). No state records the cause
(R201). -/
def execFalseSync (bits : BitVec 21) (s : State) : Result := whenEnabled (.falseSync bits) s noMatch

/-- NOMATCH: none of the three signatures (R160). -/
def execNomatch (w : HeaderWord) (s : State) : Result := whenEnabled (.noMatch w) s noMatch

end Sys2Proof.Machine
end

