-- ==== Sys2Proof/Machine/Tags.lean ====
section
/-!
DEFINITION. The two tag signatures: CLASSIFY's steps a and b (rules R154, R155).
-/

namespace Sys2Proof.Machine

/-- TAG: a Legacy Tag starts; the 4 window bytes are its first, and 124 are still to read (R154). -/
def execTag (w3 : Byte) (s : State) : Result :=
  whenEnabled (.tag w3) s fun s => .next { s with kind := .id3v1, buf := s.w.bytes, need := 124, st := .body }

/-- ID3: an Extended Tag starts; 6 header bytes are still to read (R155). `kind` is not written here (R24). -/
def execId3 (w3 : Byte) (s : State) : Result :=
  whenEnabled (.id3 w3) s fun s => .next { s with buf := s.w.bytes, need := 6, st := .id3hdr }

end Sys2Proof.Machine
end

