-- ==== Sys2Proof/Machine/Dispatch.lean ====
section
/-!
DEFINITION. The dispatch: one arm per row of the opcode table.
-/

namespace Sys2Proof.Machine

def exec (i : Instr) (s : State) : Host.Outcome State Fault Refusal :=
  match i with
  -- requests (R75)
  | .scan => Sys2Proof.Machine.execScan s
  | .scanFrame => Sys2Proof.Machine.execScanFrame s
  | .scanId3v2 => Sys2Proof.Machine.execScanId3v2 s
  | .reservedRequest => Sys2Proof.Machine.execReservedRequest s
  -- window classes (R80)
  | .tag w3 => Sys2Proof.Machine.execTag w3 s
  | .id3 w3 => Sys2Proof.Machine.execId3 w3 s
  | .frameMpeg1LIII f => Sys2Proof.Machine.execFrameMpeg1LIII f s
  | .frameMpeg1LII f => Sys2Proof.Machine.execFrameMpeg1LII f s
  | .frameMpeg1LI f => Sys2Proof.Machine.execFrameMpeg1LI f s
  | .frameMpeg2LIII f => Sys2Proof.Machine.execFrameMpeg2LIII f s
  | .frameMpeg2LII f => Sys2Proof.Machine.execFrameMpeg2LII f s
  | .frameMpeg2LI f => Sys2Proof.Machine.execFrameMpeg2LI f s
  | .frameMpeg25LIII f => Sys2Proof.Machine.execFrameMpeg25LIII f s
  | .frameMpeg25LII f => Sys2Proof.Machine.execFrameMpeg25LII f s
  | .frameMpeg25LI f => Sys2Proof.Machine.execFrameMpeg25LI f s
  | .falseSync bits => Sys2Proof.Machine.execFalseSync bits s
  | .noMatch w => Sys2Proof.Machine.execNomatch w s

end Sys2Proof.Machine
end

