-- ==== Sys2Proof/Machine/Scanner.lean ====
section
/-!
DEFINITION. The steps of SC that decode nothing: FILL, SHIFT, ID3HDR and BODY, which read one byte each (rules R152,
R161, R156, R162), and DONE and EOSR, which emit (rules R163, R205).
-/

namespace Sys2Proof.Machine

/-- FILL: the next window byte (R152). -/
def fillStep (s : State) : Result :=
  withSrcRead s fun b s =>
    if s.n < 4 then
      .next { s with w := s.w.write s.n b, n := s.n + 1, st := if s.n + 1 = 4 then .classify else .fill }
    else .fault .fillCountAboveThree

/-- SHIFT: the window advances by one byte (R161). -/
def shiftStep (s : State) : Result :=
  withSrcRead s fun b s => .next { s with w := s.w.shiftIn b, st := .classify }

/-- The last header byte `b` of an Extended Tag: its size gives the bytes still to read (R156). -/
def id3HeaderComplete (b : Byte) (s : State) : Result :=
  match s.buf[6]?, s.buf[7]?, s.buf[8]? with
  | some s6, some s7, some s8 =>
    .next { s with
      buf := s.buf ++ [b], kind := .id3v2, need := synchsafe s6 s7 s8 b
      st := if synchsafe s6 s7 s8 b = 0 then .done else .body }
  | _, _, _ => .fault .headerBytesMissing

/-- ID3HDR: header bytes 4 to 9 of an Extended Tag (R156). -/
def id3HdrStep (s : State) : Result :=
  withSrcRead s fun b s =>
    if s.need = 0 then .fault .nothingNeeded
    else if s.need = 1 then id3HeaderComplete b s
    else .next { s with buf := s.buf ++ [b], need := s.need - 1 }

/-- BODY: the remaining bytes of a recognised object (R162). -/
def bodyStep (s : State) : Result :=
  withSrcRead s fun b s =>
    if s.need = 0 then .fault .nothingNeeded
    else .next { s with buf := s.buf ++ [b], need := s.need - 1, st := if s.need = 1 then .done else .body }

/-- The object that DONE emits (R163); none for a frame without a descriptor. -/
def finishedObject (s : State) : Option Obj :=
  match s.kind, s.desc with
  | .frame, some d => some (.frame d s.buf)
  | .frame, none => none
  | .id3v1, _ => some (.legacyTag s.buf)
  | _, _ => some (.extendedTag s.buf)

/-- DONE: emits the object, or discards it for a filtering request and scans on (R163). -/
def doneStep (s : State) : Result :=
  if accepts s.mode s.kind then
    match finishedObject s with
    | some o => emit o s
    | none => .fault .frameWithoutDescriptor
  else .next (startFill s)

/-- EOSR: the report of end-of-stream and the return to IDLE (R205). -/
def eosrStep (s : State) : Result := emit .endOfStream s

/-- The step of a state in which SC decodes nothing. In IDLE it waits for a request; CLASSIFY always decodes its
window, so its line is never taken (R150). -/
def internalStep (s : State) : Result :=
  match s.st with
  | .idle => hold s
  | .fill => fillStep s
  | .classify => hold s
  | .shift => shiftStep s
  | .id3hdr => id3HdrStep s
  | .body => bodyStep s
  | .done => doneStep s
  | .eosr => eosrStep s

end Sys2Proof.Machine
end

