-- ==== Sys2Proof/Machine/Step.lean ====
section
/-!
DEFINITION. One step of SC (rules R16, R150): reset overrides everything (rules R206, R230); otherwise the step
executes what SC decodes in this state, or takes the state's own step. A configuration that rule R233 does not admit is
refused (I11; assumption 14).
-/

namespace Sys2Proof.Machine

/-- One step of SC when no reset is taken (R150). -/
def scStep (s : State) : Result :=
  match fetch s with
  | some e => exec (decode s.cfg e) s
  | none => internalStep s

/-- Whether this step is a reset (R230). -/
def resetNow (s : State) : Bool := s.rst.head?.getD false

/-- The state with this step's reset input consumed (assumption 3). -/
def sampleReset (s : State) : State := { s with rst := s.rst.tail }

/-- One step of MFHD. -/
def step (s : State) : Host.Outcome State Fault Refusal :=
  if s.cfg.admissible = false then .refused .inadmissibleConfiguration
  else if resetNow s then .next (resetRegs (sampleReset s))
  else scStep (sampleReset s)

/-- `k` steps, stopping at the first fault or refusal. -/
def run : Nat → State → Result
  | 0, s => .next s
  | k + 1, s =>
    match step s with
    | .next s' => run k s'
    | .fault r => .fault r
    | .refused r => .refused r

/-- The state in which the very next step decodes and runs the instruction of a table word: a row of at most one byte is
offered as a request in IDLE, any other stands in the window in CLASSIFY. No reset is taken at that step
(assumption 6). -/
def State.withFetchWord (s : State) (nbits w : Nat) : State :=
  if 0 < nbits ∧ nbits ≤ 8 then { s with st := .idle, req := BitVec.ofNat 2 w :: s.req, rst := false :: s.rst.tail }
  else { s with st := .classify, w := Window.ofWord (BitVec.ofNat 32 w), rst := false :: s.rst.tail }

end Sys2Proof.Machine
end

