-- ==== Sys2Proof/Machine/Flags.lean ====
section
/-!
DEFINITION. HD's result flags (rule R37): combinational outputs of HD, not stored state, with the cause codes of rule
R77. No rule of SC reads `dec_cause` (rule R201).
-/

namespace Sys2Proof

/-- The rejection cause code (rule R77). -/
def Cause.code : Cause → BitVec 3
  | .badVersion => 1#3
  | .badLayer => 2#3
  | .badBitrate => 3#3
  | .badSampleRate => 4#3
  | .badModeExt => 5#3
  | .badEmphasis => 6#3

/-- `dec_ok`: 1 when HD answers Ok (rule R37). -/
def decOk (cfg : Config) (h : HeaderWord) : Bool := (decodeHeader cfg h).isOk

/-- `dec_cause`: the cause code when HD rejects, 0 when it answers Ok (rule R37). -/
def decCause (cfg : Config) (h : HeaderWord) : BitVec 3 :=
  match decodeHeader cfg h with
  | .ok _ => 0#3
  | .error c => c.code

end Sys2Proof
end

