-- ==== Sys2Proof/Machine/Ports.lean ====
section
/-!
DEFINITION. The port level (rules R60 to R62): the clock-edge realisation of the transactions, with the payload of an
accepted object streamed out and then committed or aborted. It is built over the same `step`: an edge offers SC what the
input ports carry, and SC takes at most one step at it. The transaction level of Step.lean stays the meaning (the
opening of section 6 of 20_memory.md). One edge per internal step, and one edge per payload byte: rule R239 leaves the
number of cycles open (assumption 7).
-/

namespace Sys2Proof.Machine

/-- The input ports at one rising edge of `clk` (rule R60). -/
structure PortIn where
  rst : Bool
  reqValid : Bool
  reqMode : ReqCode
  srcValid : Bool
  srcData : Byte
  srcEnd : Bool
  payReady : Bool
  objReady : Bool
deriving DecidableEq, Repr

/-- The output ports (rule R60), with its widths. -/
structure PortOut where
  reqReady : Bool
  srcReq : Bool
  payValid : Bool
  payData : Byte
  objValid : Bool
  objKind : BitVec 2
  objLen : BitVec 29
  desc : DescPorts
  dbgDecOk : Bool
  dbgDecCause : BitVec 3
deriving DecidableEq, Repr

/-- The state of the streaming realisation: SC's registers, the payload bytes still to be delivered, those delivered
since the last commit or abort (what CON has in hand, rule R62), and the count of edges that draws the free values. -/
structure PortState where
  sc : State
  pend : List Byte
  delivered : List Byte
  edges : Nat
deriving DecidableEq, Repr

/-- The state of the realisation after reset: nothing is being streamed (rule R231). -/
def PortState.reset : PortState := { sc := State.reset, pend := [], delivered := [], edges := 0 }

/-- The kind of the object being assembled: in ID3HDR it is already an Extended Tag, although `kind` is written only at
the end of that state (rules R24, R62). -/
def objectKind (s : State) : Kind :=
  match s.st with
  | .id3hdr => .id3v2
  | _ => s.kind

/-- Whether SC has an outstanding `SrcRead()`: only FILL, SHIFT, ID3HDR and BODY read (rule R51). -/
def reads : Ctl → Bool
  | .fill => true
  | .shift => true
  | .id3hdr => true
  | .body => true
  | _ => false

/-- The object transfer that SC offers: at EOSR the abort, at DONE the commit of an object `mode` accepts (rule R62). -/
def offeredObject (s : State) : Option Obj :=
  match s.st with
  | .eosr => some .endOfStream
  | .done => if accepts s.mode s.kind then finishedObject s else none
  | _ => none

/-- `req_ready`: 1 exactly when `st = IDLE`, `rst = 0` and `req_mode ≠ 11` (rule R60). -/
def reqReady (i : PortIn) (p : PortState) : Bool := p.sc.st == .idle && !i.rst && i.reqMode != 0b11#2

/-- `src_req`: a `SrcRead()` is outstanding; every payload byte is delivered before it is issued (rules R60, R62). -/
def srcReq (i : PortIn) (p : PortState) : Bool := reads p.sc.st && p.pend.isEmpty && !i.rst

/-- `pay_valid` (rules R60, R230). -/
def payValid (i : PortIn) (p : PortState) : Bool := !p.pend.isEmpty && !i.rst

/-- `obj_valid`: the commit or abort is offered after the last payload byte (rules R60, R62, R230). -/
def objValid (i : PortIn) (p : PortState) : Bool := (offeredObject p.sc).isSome && p.pend.isEmpty && !i.rst

/-- `obj_kind` (rule R60). -/
def Obj.portKind : Obj → BitVec 2
  | .frame _ _ => 0b00#2
  | .legacyTag _ => 0b01#2
  | .extendedTag _ => 0b10#2
  | .endOfStream => 0b11#2

/-- The object's bytes; none for EndOfStream (rules R33, R60). -/
def Obj.payload : Obj → List Byte
  | .frame _ p => p
  | .legacyTag p => p
  | .extendedTag p => p
  | .endOfStream => []

/-- The descriptor ports of a frame with descriptor `d` and header word `h` (rule R60; assumption 15). -/
def descPorts (d : FrameDescriptor) (h : HeaderWord) : DescPorts where
  dVersion := versionCode h
  dLayer := layerCode h
  dCrcProtected := d.crcProtected
  dBitrate := d.bitRate
  dSamplingRate := d.samplingRate
  dPadded := d.padded
  dPrivate := d.privateBit
  dCopyright := d.copyright
  dOriginal := d.original
  dChannelMode := (fieldsOf h).channel
  dModeExt := (fieldsOf h).modeExt
  dEmphasis := (fieldsOf h).emphasis
  dSampleCount := BitVec.ofNat 11 d.sampleCount
  dFrameLength := d.frameLength

/-- What the descriptor ports show when nothing is said of them: any values that the ports can hold (rule R60, I15). -/
def openDescPorts (cfg : Config) (edges : Nat) : DescPorts :=
  { Config.freeDescPorts edges with
    dBitrate := (Config.freeDescPorts edges).dBitrate % 2 ^ cfg.bitrateWidth
    dSamplingRate := (Config.freeDescPorts edges).dSamplingRate % 2 ^ cfg.samplingRateWidth
    dFrameLength := (Config.freeDescPorts edges).dFrameLength % 2 ^ cfg.frameLengthWidth }

/-- The descriptor ports while `o` is offered: those of a frame; open for any other object (rule R60, I15). -/
def objDescPorts (cfg : Config) (edges : Nat) : Obj → DescPorts
  | .frame d (b0 :: b1 :: b2 :: b3 :: _) => descPorts d (headerWord b0 b1 b2 b3)
  | _ => openDescPorts cfg edges

/-- `obj_len` of an object of `len` bytes: 29 bits (rule R60). They hold every length under the default tables; a frame
too long for them, which only a configuration with far larger entries has, shows an open value (assumption 18). -/
def objLenPort (edges len : Nat) : BitVec 29 :=
  if len < 2 ^ 29 then BitVec.ofNat 29 len else (Config.freeObjPorts edges).2

/-- The object ports: those of the offered object where `valid`, otherwise open (rule R60, I15). -/
def objPorts (valid : Bool) (p : PortState) : BitVec 2 × BitVec 29 × DescPorts :=
  match valid, offeredObject p.sc with
  | true, some o => (o.portKind, objLenPort p.edges o.payload.length, objDescPorts p.sc.cfg p.edges o)
  | _, _ => ((Config.freeObjPorts p.edges).1, (Config.freeObjPorts p.edges).2, openDescPorts p.sc.cfg p.edges)

/-- The diagnostic ports: HD's flags for a window with frame sync in CLASSIFY, otherwise free (rules R37, R60, I16). -/
def dbgPorts (p : PortState) : Bool × BitVec 3 :=
  if p.sc.st = .classify ∧ hasSync p.sc.w.word then (decOk p.sc.cfg p.sc.w.word, decCause p.sc.cfg p.sc.w.word)
  else Config.freeDecFlags p.edges

/-- The output ports at an edge (rule R60). -/
def outputs (i : PortIn) (p : PortState) : PortOut where
  reqReady := reqReady i p
  srcReq := srcReq i p
  payValid := payValid i p
  payData := if payValid i p then p.pend.headD 0#8 else Config.freePayData p.edges
  objValid := objValid i p
  objKind := (objPorts (objValid i p) p).1
  objLen := (objPorts (objValid i p) p).2.1
  desc := (objPorts (objValid i p) p).2.2
  dbgDecOk := (dbgPorts p).1
  dbgDecCause := (dbgPorts p).2

/-- The answer to an outstanding `SrcRead()` at an edge: `src_end` wins over `src_valid` (rule R61). -/
def srcAnswers (i : PortIn) : List SrcAnswer :=
  if i.srcEnd then [.ended] else if i.srcValid then [.byte i.srcData] else []

/-- SC with what the input ports offer at this edge as its environment (rule R61). -/
def offer (i : PortIn) (s : State) : State :=
  { s with
    src := srcAnswers i
    req := if i.reqValid && i.reqMode != 0b11#2 then [i.reqMode] else []
    acks := if i.objReady then 1 else 0
    rst := [i.rst] }

/-- SC's registers with nothing offered, as they stand between two edges. -/
def quiet (s : State) : State := { s with src := [], req := [], acks := 0, rst := [] }

/-- The payload bytes that a step puts on the payload channel: those it appended to `buf`, when the object's kind is one
that `mode` accepts (rule R62). -/
def streamed (s t : State) : List Byte := if accepts t.mode (objectKind t) then t.buf.drop s.buf.length else []

/-- Whether a step was the object transfer: the commit or the abort (rule R62). -/
def transferred (s t : State) : Bool := (s.st == .done || s.st == .eosr) && t.st == .idle

/-- One rising edge of `clk` (rules R61, R62). While payload bytes are pending SC holds, and one is delivered when
`pay_ready`; reset overrides that (R230). Otherwise SC takes one step with what the ports offer. DESIGN CHOICE
(assumption 17): where that step is refused or faults (under a configuration that R233 does not admit, or in a state that
no run reaches), the edge is counted and nothing else changes. -/
def edge (i : PortIn) (p : PortState) : PortState :=
  match p.pend, i.rst with
  | b :: rest, false =>
    if i.payReady then { p with pend := rest, delivered := p.delivered ++ [b], edges := p.edges + 1 }
    else { p with edges := p.edges + 1 }
  | _, _ =>
    match step (offer i p.sc) with
    | .next t =>
      { sc := quiet t
        pend := if i.rst then [] else streamed p.sc t
        delivered := if i.rst || transferred p.sc t then [] else p.delivered
        edges := p.edges + 1 }
    | _ => { p with edges := p.edges + 1 }

/-- The transactions of some edges: the answers of SRC, the requests and the acceptances of CON that transferred, and the
reset input of each step that SC took. -/
structure Transfers where
  src : List SrcAnswer
  req : List ReqCode
  acks : Nat
  rst : List Bool
deriving DecidableEq, Repr

/-- An answer of SRC transfers (rule R61). -/
def srcTransfers (i : PortIn) (p : PortState) : Bool := (outputs i p).srcReq && (i.srcValid || i.srcEnd)

/-- A request transfers (rule R61). -/
def reqTransfers (i : PortIn) (p : PortState) : Bool := i.reqValid && (outputs i p).reqReady

/-- An object transfers (rule R61). -/
def objTransfers (i : PortIn) (p : PortState) : Bool := (outputs i p).objValid && i.objReady

/-- SC's internal steps, which wait for no port: CLASSIFY, and the discarding of an object that `mode` does not accept
(rules R153, R163), once no payload byte is pending. -/
def internalAt (p : PortState) : Bool :=
  p.pend.isEmpty && (p.sc.st == .classify || (p.sc.st == .done && (offeredObject p.sc).isNone))

/-- Whether SC takes a step at this edge that is no holding: a reset, a transfer or an internal step. -/
def moves (i : PortIn) (p : PortState) : Bool :=
  i.rst || srcTransfers i p || reqTransfers i p || objTransfers i p || internalAt p

/-- The transactions at one edge. -/
def transfersAt (i : PortIn) (p : PortState) : Transfers where
  src := if srcTransfers i p then srcAnswers i else []
  req := if reqTransfers i p then [i.reqMode] else []
  acks := if objTransfers i p then 1 else 0
  rst := if moves i p then [i.rst] else []

/-- The transactions of one edge and then of others. -/
def Transfers.append (x y : Transfers) : Transfers := ⟨x.src ++ y.src, x.req ++ y.req, x.acks + y.acks, x.rst ++ y.rst⟩

/-- The realisation after a sequence of edges. -/
def edgesRun : List PortIn → PortState → PortState
  | [], p => p
  | i :: is, p => edgesRun is (edge i p)

/-- The transactions of a sequence of edges, in order. -/
def transfers : List PortIn → PortState → Transfers
  | [], _ => ⟨[], [], 0, []⟩
  | i :: is, p => (transfersAt i p).append (transfers is (edge i p))

end Sys2Proof.Machine
end

