-- ==== Sys2Proof/Safety.lean ====
section
/-!
DEFINITION. The terms that claims about MFHD use: the invariant of SC's states (`Inv`) and of the port level
(`PortInv`), what CON and SRC can observe, and the source's own algorithm `nextObject` (MP3LIB §4.2, rules R164 to
R170) as a function on the list of SRC's answers, which the machine is claimed to refine.
-/

namespace Sys2Proof.Machine

/-! ### Well-formed objects (rule R33) -/

/-- The bytes begin with a frame header, with sync, that HD decodes to `d` (rules R33, R158). -/
def StartsFrame (cfg : Config) (d : FrameDescriptor) : List Byte → Prop
  | b0 :: b1 :: b2 :: b3 :: _ => hasSync (headerWord b0 b1 b2 b3) = true ∧ hd cfg b0 b1 b2 b3 = .ok d
  | _ => False

/-- The bytes begin with "TAG" (rule R78). -/
def StartsTag (p : List Byte) : Prop := p.take 3 = [0x54#8, 0x41#8, 0x47#8]

/-- The bytes begin with "ID3" (rule R79). -/
def StartsId3 (p : List Byte) : Prop := p.take 3 = [0x49#8, 0x44#8, 0x33#8]

/-- The synchsafe size that header bytes 6 to 9 declare (rule R79). -/
def declaredSize : List Byte → Option Nat
  | _ :: _ :: _ :: _ :: _ :: _ :: s6 :: s7 :: s8 :: s9 :: _ => some (synchsafe s6 s7 s8 s9)
  | _ => none

/-- The objects of rule R33. -/
def ObjectOk (cfg : Config) : Obj → Prop
  | .frame d p => p.length = d.frameLength ∧ StartsFrame cfg d p
  | .legacyTag p => p.length = 128 ∧ StartsTag p
  | .extendedTag p => StartsId3 p ∧ ∃ size, declaredSize p = some size ∧ p.length = 10 + size
  | .endOfStream => True

/-! ### The invariant of SC -/

/-- The object under assembly in BODY and DONE: its kind, its first bytes, and how many bytes are still to come (rules
R154, R156, R158, R162). -/
def Assembling (s : State) : Prop :=
  match s.kind with
  | .none => False
  | .frame => ∃ d, s.desc = some d ∧ StartsFrame s.cfg d s.buf ∧ s.buf.length + s.need = d.frameLength
  | .id3v1 => StartsTag s.buf ∧ s.buf.length + s.need = 128
  | .id3v2 => StartsId3 s.buf ∧ ∃ size, declaredSize s.buf = some size ∧ s.buf.length + s.need = 10 + size

/-- No byte of an object has been recognised (rules R151, R163, R204). -/
def Cleared (s : State) : Prop := s.kind = .none ∧ s.desc = none ∧ s.buf = [] ∧ s.need = 0

/-- The states that runs from reset reach meet this; it rules out every fault. -/
structure Inv (s : State) : Prop where
  admissible : s.cfg.admissible = true
  /-- R22 -/
  fill_count : s.n ≤ 4
  /-- R152: in FILL `n < 4` always holds -/
  fill_room : s.st = .fill → s.n < 4
  /-- R152: the window is full once it is classified -/
  window_full : s.st = .classify ∨ s.st = .shift ∨ s.st = .id3hdr ∨ s.st = .body ∨ s.st = .done → s.n = 4
  cleared : s.st = .fill ∨ s.st = .classify ∨ s.st = .shift ∨ s.st = .eosr → Cleared s
  /-- R38: in IDLE the object registers hold what the last request left: nothing, or the object it emitted -/
  idle : s.st = .idle → s.need = 0 ∧ (Cleared s ∨ Assembling s)
  /-- R26: the buffer starts with the 4 window bytes -/
  buffer_starts : s.st = .id3hdr ∨ s.st = .body ∨ s.st = .done → s.w.bytes <+: s.buf
  /-- R155, R156 -/
  header : s.st = .id3hdr → s.kind = .none ∧ s.desc = none ∧ StartsId3 s.buf ∧ s.buf.length + s.need = 10 ∧ 0 < s.need
  /-- R162: BODY is entered only with `need ≥ 1` -/
  body : s.st = .body → 0 < s.need ∧ Assembling s
  done : s.st = .done → s.need = 0 ∧ Assembling s
  /-- R33, R34 -/
  outs_ok : ∀ o ∈ s.outs, ObjectOk s.cfg o

/-! ### The invariant of the port level (rule R62) -/

/-- Whether SC is assembling an object that the request in progress accepts. -/
def Streaming (s : State) : Prop :=
  (s.st = .id3hdr ∨ s.st = .body ∨ s.st = .done) ∧ accepts s.mode (objectKind s) = true

/-- What has been delivered and what is pending are together the buffer of an accepted object; nothing is pending
otherwise, and nothing is in CON's hands uncommitted but an object that end-of-stream cut off. -/
structure PortInv (p : PortState) : Prop where
  sc : Inv p.sc
  streaming : Streaming p.sc → p.delivered ++ p.pend = p.sc.buf
  quiet : ¬ Streaming p.sc → p.pend = []
  uncommitted : ¬ Streaming p.sc → p.sc.st ≠ .eosr → p.delivered = []

/-! ### Observation -/

/-- What SRC and CON can see of a state, and what they are about to do: everything but the registers that rule R38
calls leftovers (`W`, `n`, `kind`, `need`, `buf`, `desc`) and the mode of a finished request. -/
structure Seen where
  cfg : Config
  st : Ctl
  pos : Nat
  outs : List Obj
  src : List SrcAnswer
  req : List ReqCode
  acks : Nat
  rst : List Bool
deriving DecidableEq, Repr

/-- The observation of a state. -/
def State.seen (s : State) : Seen := ⟨s.cfg, s.st, s.pos, s.outs, s.src, s.req, s.acks, s.rst⟩

/-- The observation of an outcome. -/
def seenOutcome : Result → Host.Outcome Seen Fault Refusal
  | .next s => .next s.seen
  | .fault f => .fault f
  | .refused r => .refused r

/-- MFHD's registers, without what the environment is about to do. -/
structure Regs where
  cfg : Config
  st : Ctl
  w : Window
  n : Nat
  mode : Mode
  kind : Kind
  need : Nat
  buf : List Byte
  desc : Option FrameDescriptor
  pos : Nat
  outs : List Obj
deriving DecidableEq, Repr

/-- The registers of a state. -/
def State.regs (s : State) : Regs := ⟨s.cfg, s.st, s.w, s.n, s.mode, s.kind, s.need, s.buf, s.desc, s.pos, s.outs⟩

/-- The state with the given environment. -/
def State.withEnv (s : State) (src : List SrcAnswer) (req : List ReqCode) (acks : Nat) (rst : List Bool) : State :=
  { s with src, req, acks, rst }

/-- Two states from which a run goes on alike: they show the same, and they agree in every register that a step reads
before it writes it: none in IDLE and EOSR; in FILL all but the window bytes not yet filled; all of them in any other
state (rule R38). -/
def Agree (s s' : State) : Prop :=
  s.seen = s'.seen ∧
    match s.st with
    | .idle => True
    | .eosr => True
    | .fill => s.n = s'.n ∧ s.mode = s'.mode ∧ s.kind = s'.kind ∧ s.need = s'.need ∧ s.buf = s'.buf ∧ s.desc = s'.desc ∧
        ∀ k < s.n, s.w.bytes[k]? = s'.w.bytes[k]?
    | .classify => s = s'
    | .shift => s = s'
    | .id3hdr => s = s'
    | .body => s = s'
    | .done => s = s'

/-! ### The source's algorithm -/

/-- A read of several bytes (rule R52): all of them, or a short read after `count` bytes, or SRC has not answered. -/
inductive Taken where
  | got (bytes : List Byte) (rest : List SrcAnswer)
  | short (count : Nat) (rest : List SrcAnswer)
  | waiting
deriving DecidableEq, Repr

/-- A read of `k` bytes (rule R52). -/
def takeBytes : Nat → List SrcAnswer → Taken
  | 0, src => .got [] src
  | _ + 1, [] => .waiting
  | _ + 1, .ended :: rest => .short 0 rest
  | k + 1, .byte b :: rest =>
    match takeBytes k rest with
    | .got bs rest' => .got (b :: bs) rest'
    | .short c rest' => .short (c + 1) rest'
    | .waiting => .waiting

/-- The result of one scan: the object, what is left of the source, and how many bytes were taken. -/
structure Found where
  obj : Obj
  rest : List SrcAnswer
  taken : Nat
deriving DecidableEq, Repr

/-- `f` after `k` more bytes taken before it. -/
def Found.after (k : Nat) (f : Found) : Found := { f with taken := k + f.taken }

/-- The remaining `k` bytes of an object whose first bytes are `first`; a short read ends the stream (rules R162,
R169). -/
def finishObject (make : List Byte → Obj) (first : List Byte) (k : Nat) (src : List SrcAnswer) : Option Found :=
  match takeBytes k src with
  | .got bs rest => some ⟨make (first ++ bs), rest, k⟩
  | .short c rest => some ⟨.endOfStream, rest, c⟩
  | .waiting => none

/-- An Extended Tag whose first four bytes are `first`: six header bytes, then the declared size (rules R155, R156). -/
def finishExtended (first : List Byte) (src : List SrcAnswer) : Option Found :=
  match takeBytes 6 src with
  | .got bs rest =>
    match declaredSize (first ++ bs) with
    | some size => (finishObject .extendedTag (first ++ bs) size rest).map (Found.after 6)
    | none => none
  | .short c rest => some ⟨.endOfStream, rest, c⟩
  | .waiting => none

/-- The loop of MP3LIB §4.2 from a full window: recognise an object, or advance one byte (rules R153 to R161). -/
def scanFrom (cfg : Config) (w : Window) (src : List SrcAnswer) : Option Found :=
  if w.w0 = 0x54#8 ∧ w.w1 = 0x41#8 ∧ w.w2 = 0x47#8 then finishObject .legacyTag w.bytes 124 src
  else if w.w0 = 0x49#8 ∧ w.w1 = 0x44#8 ∧ w.w2 = 0x33#8 then finishExtended w.bytes src
  else
    match if w.w0 = 0xFF#8 ∧ w.w1 &&& 0xE0#8 = 0xE0#8 then (hd cfg w.w0 w.w1 w.w2 w.w3).toOption else none with
    | some d => finishObject (.frame d) w.bytes (d.frameLength - 4) src
    | none =>
      match src with
      | [] => none
      | .ended :: rest => some ⟨.endOfStream, rest, 0⟩
      | .byte b :: rest => (scanFrom cfg (w.shiftIn b) rest).map (Found.after 1)

/-- `nextObject(source)` of MP3LIB §4.2: fill the window, then scan. -/
def nextObject (cfg : Config) (src : List SrcAnswer) : Option Found :=
  match takeBytes 4 src with
  | .got [b0, b1, b2, b3] rest => (scanFrom cfg ⟨b0, b1, b2, b3⟩ rest).map (Found.after 4)
  | .got _ _ => none
  | .short c rest => some ⟨.endOfStream, rest, c⟩
  | .waiting => none

/-- Whether a filter mode lets the result of a generic scan through: EndOfStream always (rule R164). -/
def passes : Mode → Obj → Bool
  | _, .endOfStream => true
  | m, .frame _ _ => accepts m .frame
  | m, .legacyTag _ => accepts m .id3v1
  | m, .extendedTag _ => accepts m .id3v2

/-- A filtering request: the generic scan repeated, non-target results dropped, at most `fuel` of them (rule R164). -/
def nextPassing (cfg : Config) (m : Mode) : Nat → List SrcAnswer → Option Found
  | 0, _ => none
  | fuel + 1, src =>
    match nextObject cfg src with
    | none => none
    | some f => if passes m f.obj then some f else (nextPassing cfg m fuel f.rest).map (Found.after f.taken)

/-- The filter mode that a request code carries (rule R75); the reserved code carries none. -/
def modeOf (c : ReqCode) : Option Mode :=
  if c = 0b00#2 then some .any
  else if c = 0b01#2 then some .frameOnly
  else if c = 0b10#2 then some .id3v2Only
  else none

end Sys2Proof.Machine
end

