-- ==== Sys2Proof/Certificates/Slice0/Obligations.lean ====
section
/-!
DEFINITION. The statements about MFHD that the provers settle. Each docstring names the rule of spec/ that it
formalises. `resetNow s = false` says that no reset is taken at this step, and `sampleReset s` is the state with that
input consumed, so that a statement about a step speaks of every state, whatever its reset inputs.
-/

open Sys2Proof Sys2Proof.Machine

/-! ### Reset and configuration -/

/-- R36: the state after reset. The configuration that `State.reset` holds is the default one of rule R8, which is the
model's choice of instance (assumption 1); this statement does not speak of it. -/
def Obligations.ResetStateHoldsResetValues : Prop :=
  State.reset.st = .idle ∧ State.reset.w.bytes = [0x00#8, 0x00#8, 0x00#8, 0x00#8] ∧ State.reset.n = 0 ∧
    State.reset.mode = .any ∧ State.reset.kind = .none ∧ State.reset.need = 0 ∧ State.reset.buf = [] ∧
    State.reset.desc = none ∧ State.reset.pos = 0 ∧ State.reset.outs = [] ∧
    ∀ s : State, (resetRegs s).cfg = s.cfg

/-- R230: the reset step, in every state, and the rising edge with `rst = 1`: every register at its value of R36,
configuration and tables kept, no byte read, nothing emitted (the history itself is cleared); and while `rst = 1` no
channel transfers. -/
def Obligations.ResetStepReloadsRegistersAndStopsTransfers : Prop :=
  (∀ s : State, s.cfg.admissible = true → s.rst.head? = some true →
    step s = .next { State.reset with cfg := s.cfg, src := s.src, req := s.req, acks := s.acks, rst := s.rst.tail }) ∧
  (∀ (i : PortIn) (p : PortState), p.sc.cfg.admissible = true → i.rst = true →
    (edge i p).sc = { State.reset with cfg := p.sc.cfg }) ∧
  (∀ (i : PortIn) (p : PortState), i.rst = true →
    (outputs i p).reqReady = false ∧ (outputs i p).srcReq = false ∧ (outputs i p).payValid = false ∧
      (outputs i p).objValid = false)

/-- R233: the admissible configurations are those that meet the five conditions (the third conjunct of each map is
"onto"), the default one is admissible, and the model refuses every other. -/
def Obligations.ConfigurationAdmissibility : Prop :=
  (∀ cfg : Config, cfg.admissible = true ↔
    ((∀ v v' : BitVec 2, v ≠ 0b01#2 → v' ≠ 0b01#2 → cfg.version v = cfg.version v' → v = v') ∧
      (∀ x : Version, ∃ v : BitVec 2, v ≠ 0b01#2 ∧ cfg.version v = x)) ∧
    ((∀ l l' : BitVec 2, l ≠ 0b00#2 → l' ≠ 0b00#2 → cfg.layer l = cfg.layer l' → l = l') ∧
      (∀ x : Layer, ∃ l : BitVec 2, l ≠ 0b00#2 ∧ cfg.layer l = x)) ∧
    Function.Bijective cfg.channelMode ∧
    ((∀ (fam : Family) (l : Layer), ∀ k ∈ (cfg.bitrateColumn fam l).toList, 0 < k) ∧
      (∀ v : Version, ∀ k ∈ (cfg.sampleRateColumn v).toList, 0 < k)) ∧
    (∀ (h : HeaderWord) (d : FrameDescriptor), decodeHeader cfg h = .ok d → 4 ≤ d.frameLength)) ∧
  Config.default.admissible = true ∧
  (∀ s : State, s.cfg.admissible = false → step s = .refused .inadmissibleConfiguration)

/-! ### Encodings and decoding -/

/-- A few words written out from rules R70 to R80 (95_test_vectors.md V-HD-1, V-HD-5, V-HD-7, V-HD-8, V-SC-4, V-SC-5,
V-SC-9, V-SC-10) decode to the instruction they stand for, under the default configuration (assumption 1). -/
def Obligations.DecodesWrittenOutWords : Prop :=
  decodeRequest 0b01#2 = .scanFrame ∧ decodeRequest 0b11#2 = .reservedRequest ∧
  decodeWindow Config.default 0b01010100_01000001_01000111_00100000#32 = .tag 0x20#8 ∧
  decodeWindow Config.default 0b01001001_01000100_00110011_00000100#32 = .id3 0x04#8 ∧
  decodeWindow Config.default 0b11111111_11111011_01010010_11000000#32
    = .frameMpeg1LIII ⟨1#1, 5#4, 0#2, 1#1, 0#1, 3#2, 0#2, 0#1, 0#1, 0#2⟩ ∧
  decodeWindow Config.default 0b11111111_11111111_00010010_00000000#32
    = .frameMpeg1LI ⟨1#1, 1#4, 0#2, 1#1, 0#1, 0#2, 0#2, 0#1, 0#1, 0#2⟩ ∧
  decodeWindow Config.default 0b11111111_11110011_00010100_11000000#32
    = .frameMpeg2LIII ⟨1#1, 1#4, 1#2, 0#1, 0#1, 3#2, 0#2, 0#1, 0#1, 0#2⟩ ∧
  decodeWindow Config.default 0b11111111_11100101_11101010_00000000#32
    = .frameMpeg25LII ⟨1#1, 14#4, 2#2, 1#1, 0#1, 0#2, 0#2, 0#1, 0#1, 0#2⟩ ∧
  decodeWindow Config.default 0b11111111_11111011_00000000_00000000#32 = .falseSync 0b11011_00000000_00000000#21 ∧
  decodeWindow Config.default 0x00000000#32 = .noMatch 0x00000000#32

/-- Decode and encode agree: every well-formed instruction, under every configuration, is decoded from its encoding,
with every operand at every value the encoding admits. -/
def Obligations.DecodeEncodeRoundTrip : Prop :=
  ∀ (cfg : Config) (i : Instr), i.wf cfg = true → decode cfg (encode i) = i

/-- What SC decodes is well-formed: a frame row is decoded only with operands that HD accepts, a false sync only with
operands that it rejects (R158, R159), and a NOMATCH has no signature (R160). -/
def Obligations.DecodedInstructionsAreWellFormed : Prop :=
  ∀ (cfg : Config) (e : Encoded), (decode cfg e).wf cfg = true

/-- R80: each window is in exactly the class that its bytes give it, a frame in the variant of its codes `h[20:17]`.
The conditions do not mention one another, so the order of the tests changes no outcome (the inference of R81). -/
def Obligations.WindowClassByItsBytes : Prop :=
  ∀ (cfg : Config) (b0 b1 b2 b3 : Byte),
    (decodeWindow cfg (headerWord b0 b1 b2 b3) = .tag b3 ↔ b0 = 0x54#8 ∧ b1 = 0x41#8 ∧ b2 = 0x47#8) ∧
    (decodeWindow cfg (headerWord b0 b1 b2 b3) = .id3 b3 ↔ b0 = 0x49#8 ∧ b1 = 0x44#8 ∧ b2 = 0x33#8) ∧
    (frameRow (versionCode (headerWord b0 b1 b2 b3)) (layerCode (headerWord b0 b1 b2 b3))
        (fieldsOf (headerWord b0 b1 b2 b3)) = some (decodeWindow cfg (headerWord b0 b1 b2 b3)) ↔
      (b0 = 0xFF#8 ∧ b1 &&& 0xE0#8 = 0xE0#8) ∧ ∃ d, hd cfg b0 b1 b2 b3 = .ok d) ∧
    (decodeWindow cfg (headerWord b0 b1 b2 b3) = .falseSync ((headerWord b0 b1 b2 b3).extractLsb' 0 21) ↔
      (b0 = 0xFF#8 ∧ b1 &&& 0xE0#8 = 0xE0#8) ∧ ∃ c, hd cfg b0 b1 b2 b3 = .error c) ∧
    (decodeWindow cfg (headerWord b0 b1 b2 b3) = .noMatch (headerWord b0 b1 b2 b3) ↔
      ¬ (b0 = 0x54#8 ∧ b1 = 0x41#8 ∧ b2 = 0x47#8) ∧ ¬ (b0 = 0x49#8 ∧ b1 = 0x44#8 ∧ b2 = 0x33#8) ∧
        ¬ (b0 = 0xFF#8 ∧ b1 &&& 0xE0#8 = 0xE0#8))

/-- R70: every field's position, in the source's own wording (byte and bits), and no gap and no overlap: a header with
sync is its sync, its codes and its fields put together. -/
def Obligations.HeaderFieldPositions : Prop :=
  (∀ b0 b1 b2 b3 : Byte,
    (hasSync (headerWord b0 b1 b2 b3) = true ↔ b0 = 0xFF#8 ∧ b1.extractLsb' 5 3 = 0b111#3) ∧
    versionCode (headerWord b0 b1 b2 b3) = b1.extractLsb' 3 2 ∧
    layerCode (headerWord b0 b1 b2 b3) = b1.extractLsb' 1 2 ∧
    fieldsOf (headerWord b0 b1 b2 b3) =
      { crc := b1.extractLsb' 0 1, bitrate := b2.extractLsb' 4 4, rate := b2.extractLsb' 2 2
        padding := b2.extractLsb' 1 1, priv := b2.extractLsb' 0 1, channel := b3.extractLsb' 6 2
        modeExt := b3.extractLsb' 4 2, copyright := b3.extractLsb' 3 1, original := b3.extractLsb' 2 1
        emphasis := b3.extractLsb' 0 2 }) ∧
  (∀ h : HeaderWord, hasSync h = true →
    h.toNat = 0b11111111111 * 2 ^ 21 + (versionCode h).toNat * 2 ^ 19 + (layerCode h).toNat * 2 ^ 17
      + (fieldsOf h).crc.toNat * 2 ^ 16 + (fieldsOf h).bitrate.toNat * 2 ^ 12 + (fieldsOf h).rate.toNat * 2 ^ 10
      + (fieldsOf h).padding.toNat * 2 ^ 9 + (fieldsOf h).priv.toNat * 2 ^ 8 + (fieldsOf h).channel.toNat * 2 ^ 6
      + (fieldsOf h).modeExt.toNat * 2 ^ 4 + (fieldsOf h).copyright.toNat * 2 ^ 3
      + (fieldsOf h).original.toNat * 2 ^ 2 + (fieldsOf h).emphasis.toNat)

/-- R11: the header word of a window, and where bit `j` of byte `k` stands in it. -/
def Obligations.HeaderWordIsBigEndian : Prop :=
  (∀ b0 b1 b2 b3 : Byte, (headerWord b0 b1 b2 b3).toNat =
    b0.toNat * 2 ^ 24 + b1.toNat * 2 ^ 16 + b2.toNat * 2 ^ 8 + b3.toNat) ∧
  (∀ (w : Window) (k j : Nat) (b : Byte), w.bytes[k]? = some b → j < 8 →
    w.word.getLsbD (8 * (3 - k) + j) = b.getLsbD j)

/-! ### The header decoder -/

/-- R113: HD answers Ok exactly when the six tests pass; the bitrate and the sampling rate are then the table entries,
the sample count is that of R108, written out, and the frame length is the formula of R110. -/
def Obligations.HdValidExactlyOnSixTests : Prop :=
  ∀ (cfg : Config) (h : HeaderWord),
    ((∃ d, decodeHeader cfg h = .ok d) ↔
      versionCode h ≠ 0b01#2 ∧ layerCode h ≠ 0b00#2 ∧ (fieldsOf h).bitrate ≠ 0#4 ∧ (fieldsOf h).bitrate ≠ 15#4 ∧
        (fieldsOf h).rate ≠ 3#2 ∧ ((fieldsOf h).modeExt = 0#2 ∨ cfg.channelMode (fieldsOf h).channel = .jointStereo) ∧
        (fieldsOf h).emphasis ≠ 0b10#2) ∧
    ∀ d, decodeHeader cfg h = .ok d → ∃ kbps hz,
      let samples := if cfg.layer (layerCode h) = .I then 384 else if cfg.layer (layerCode h) = .II then 1152
        else if cfg.version (versionCode h) = .mpeg1 then 1152 else 576
      (cfg.bitrateColumn (family (cfg.version (versionCode h))) (cfg.layer (layerCode h)))[(fieldsOf h).bitrate.toNat - 1]?
        = some kbps ∧
      (cfg.sampleRateColumn (cfg.version (versionCode h)))[(fieldsOf h).rate.toNat]? = some hz ∧
      d.bitRate = kbps * 1000 ∧ d.samplingRate = hz ∧ d.sampleCount = samples ∧
      d.frameLength = samples / 8 * (kbps * 1000) / hz
        + (if (fieldsOf h).padding = 0#1 then 0 else if cfg.layer (layerCode h) = .I then 4 else 1)

/-- R111: the whole decode: the first failing test, in the order of the rule, gives the cause; where none fails, the
descriptor, with the sample counts of R32 and R108 written out. -/
def Obligations.HdWholeDecode : Prop :=
  ∀ (cfg : Config) (b0 b1 b2 b3 : Byte),
    let h := headerWord b0 b1 b2 b3
    let V := versionCode h
    let L := layerCode h
    let f := fieldsOf h
    let badExt := f.modeExt ≠ 0b00#2 ∧ cfg.channelMode f.channel ≠ .jointStereo
    let samples := if cfg.layer L = .I then 384 else if cfg.layer L = .II then 1152
      else if cfg.version V = .mpeg1 then 1152 else 576
    (V = 0b01#2 → hd cfg b0 b1 b2 b3 = .error .badVersion) ∧
    (V ≠ 0b01#2 → L = 0b00#2 → hd cfg b0 b1 b2 b3 = .error .badLayer) ∧
    (V ≠ 0b01#2 → L ≠ 0b00#2 → (f.bitrate = 0#4 ∨ f.bitrate = 15#4) → hd cfg b0 b1 b2 b3 = .error .badBitrate) ∧
    (V ≠ 0b01#2 → L ≠ 0b00#2 → ¬ (f.bitrate = 0#4 ∨ f.bitrate = 15#4) → f.rate = 3#2 →
      hd cfg b0 b1 b2 b3 = .error .badSampleRate) ∧
    (V ≠ 0b01#2 → L ≠ 0b00#2 → ¬ (f.bitrate = 0#4 ∨ f.bitrate = 15#4) → f.rate ≠ 3#2 → badExt →
      hd cfg b0 b1 b2 b3 = .error .badModeExt) ∧
    (V ≠ 0b01#2 → L ≠ 0b00#2 → ¬ (f.bitrate = 0#4 ∨ f.bitrate = 15#4) → f.rate ≠ 3#2 → ¬ badExt →
      f.emphasis = 0b10#2 → hd cfg b0 b1 b2 b3 = .error .badEmphasis) ∧
    (V ≠ 0b01#2 → L ≠ 0b00#2 → ¬ (f.bitrate = 0#4 ∨ f.bitrate = 15#4) → f.rate ≠ 3#2 → ¬ badExt →
      f.emphasis ≠ 0b10#2 → ∃ kbps hz,
        (cfg.bitrateColumn (if cfg.version V = .mpeg1 then .F1 else .F2) (cfg.layer L))[f.bitrate.toNat - 1]? = some kbps ∧
        (cfg.sampleRateColumn (cfg.version V))[f.rate.toNat]? = some hz ∧
        hd cfg b0 b1 b2 b3 = .ok
          { version := cfg.version V, layer := cfg.layer L, protectionBit := f.crc
            crcProtected := if cfg.crcPolarity = .zeroMeansProtected then decide (f.crc = 0#1) else decide (f.crc = 1#1)
            bitRate := kbps * 1000, samplingRate := hz, padded := decide (f.padding = 1#1), privateBit := f.priv
            channelMode := cfg.channelMode f.channel, modeExtension := f.modeExt
            copyright := decide (f.copyright = 1#1), original := decide (f.original = 1#1), emphasis := f.emphasis
            sampleCount := samples
            frameLength := samples / 8 * (kbps * 1000) / hz
              + (if f.padding = 0#1 then 0 else if cfg.layer L = .I then 4 else 1) })

/-- R114: HD does not test frame sync: words that agree below bit 21 decode alike, and `00 1B 90 00` decodes like
`FF FB 90 00`. -/
def Obligations.HdIgnoresTheSyncBits : Prop :=
  (∀ (cfg : Config) (h h' : HeaderWord), h.extractLsb' 0 21 = h'.extractLsb' 0 21 →
    decodeHeader cfg h = decodeHeader cfg h') ∧
  (∃ d, decodeHeader Config.default 0x001B9000#32 = .ok d ∧ decodeHeader Config.default 0xFFFB9000#32 = .ok d)

/-- R37 and R77: `dec_ok` is 1 exactly when HD answers Ok; `dec_cause` is then 0, otherwise the code 1 to 6 of the
cause; 7 is never produced. -/
def Obligations.HdResultFlags : Prop :=
  ∀ (cfg : Config) (h : HeaderWord),
    (decOk cfg h = true ↔ ∃ d, decodeHeader cfg h = .ok d) ∧ (decCause cfg h = 0#3 ↔ decOk cfg h = true) ∧
    (decCause cfg h = 1#3 ↔ decodeHeader cfg h = .error .badVersion) ∧
    (decCause cfg h = 2#3 ↔ decodeHeader cfg h = .error .badLayer) ∧
    (decCause cfg h = 3#3 ↔ decodeHeader cfg h = .error .badBitrate) ∧
    (decCause cfg h = 4#3 ↔ decodeHeader cfg h = .error .badSampleRate) ∧
    (decCause cfg h = 5#3 ↔ decodeHeader cfg h = .error .badModeExt) ∧
    (decCause cfg h = 6#3 ↔ decodeHeader cfg h = .error .badEmphasis) ∧ decCause cfg h ≠ 7#3

/-- R116, the spec's own inference from R110 and the default tables (assumption 1): a frame length lies between 24
and 2881, both are reached by the headers that the rule names, and under any admissible configuration it is at least
4. -/
def Obligations.FrameLengthRange : Prop :=
  (∀ (h : HeaderWord) (d : FrameDescriptor), decodeHeader Config.default h = .ok d →
    24 ≤ d.frameLength ∧ d.frameLength ≤ 2881) ∧
  (∃ d, decodeHeader Config.default 0xFFF314C0#32 = .ok d ∧ d.frameLength = 24) ∧
  (∃ d, decodeHeader Config.default 0xFFE5EA00#32 = .ok d ∧ d.frameLength = 2881) ∧
  (∀ (cfg : Config) (h : HeaderWord) (d : FrameDescriptor), cfg.admissible = true → decodeHeader cfg h = .ok d →
    4 ≤ d.frameLength)

/-- R9, R25, R26 and the inference of R115: under the default tables (assumption 1) the stated widths hold every
value of a reachable state exactly: the product of the length formula 26 bits, bitrates 19, sampling rates 16, frame
lengths 12, `need` 29; and the object buffer never exceeds the largest object. -/
def Obligations.WidthsHoldEveryValue : Prop :=
  (∀ (h : HeaderWord) (d : FrameDescriptor), decodeHeader Config.default h = .ok d →
    d.sampleCount / 8 * d.bitRate ≤ 55296000 ∧ d.bitRate ≤ 448000 ∧ d.samplingRate ≤ 48000 ∧ d.frameLength < 2 ^ 12) ∧
  (∀ s : State, Inv s → s.cfg = Config.default →
    s.need < 2 ^ 29 ∧ s.buf.length ≤ 268435465)

/-- R157 and R79: the synchsafe size is the concatenation of the low 7 bits of its four bytes, MSB first; so bit 7
of a byte is dropped, the size fits 28 bits and the object's length 29. -/
def Obligations.SynchsafeConcatenatesSevenBits : Prop :=
  ∀ s6 s7 s8 s9 : Byte,
    synchsafe s6 s7 s8 s9
      = (s6.extractLsb' 0 7 ++ s7.extractLsb' 0 7 ++ s8.extractLsb' 0 7 ++ s9.extractLsb' 0 7 : BitVec 28).toNat ∧
    synchsafe s6 s7 s8 s9
      = s6.toNat % 128 * 2 ^ 21 + s7.toNat % 128 * 2 ^ 14 + s8.toNat % 128 * 2 ^ 7 + s9.toNat % 128 ∧
    10 + synchsafe s6 s7 s8 s9 ≤ 268435465 ∧ 268435465 < 2 ^ 29

/-! ### The instructions: what each does, where it completes, what it leaves unchanged

Each equation gives the whole next state, so it is the frame as well: every register that the record does not name is
unchanged. -/

/-- R151: ACCEPT, for the three requests, and the refusal of the reserved code, which the port level never accepts; a
request offered in any other state is not accepted: that `exec` then answers the same state is the model's choice
(assumption 4), since R151 says only that the request is not accepted. -/
def Obligations.RequestsAreAcceptedInIdle : Prop :=
  (∀ (s : State) (rest : List ReqCode), s.st = .idle →
    (s.req = 0b00#2 :: rest → exec .scan s = .next { s with
      mode := .any, n := 0, kind := .none, desc := none, buf := [], need := 0, st := .fill, req := rest }) ∧
    (s.req = 0b01#2 :: rest → exec .scanFrame s = .next { s with
      mode := .frameOnly, n := 0, kind := .none, desc := none, buf := [], need := 0, st := .fill, req := rest }) ∧
    (s.req = 0b10#2 :: rest → exec .scanId3v2 s = .next { s with
      mode := .id3v2Only, n := 0, kind := .none, desc := none, buf := [], need := 0, st := .fill, req := rest }) ∧
    (s.req = 0b11#2 :: rest → exec .reservedRequest s = .refused .reservedRequestMode)) ∧
  (∀ s : State, s.st ≠ .idle → ∀ i ∈ [Instr.scan, .scanFrame, .scanId3v2], exec i s = .next s) ∧
  (∀ (i : PortIn) (p : PortState), i.reqMode = 0b11#2 → (outputs i p).reqReady = false)

/-- R59, R151 and I10: a request with the reserved mode code stops by name: its meaning in every state, and the step
wherever it is the request that IDLE would take. -/
def Obligations.ReservedRequestIsRefused : Prop :=
  (∀ s : State, exec .reservedRequest s = .refused .reservedRequestMode) ∧
  (∀ (s : State) (rest : List ReqCode), s.cfg.admissible = true → resetNow s = false → s.st = .idle →
    s.req = 0b11#2 :: rest → step s = .refused .reservedRequestMode)

/-- R59: SC accepts a request only in IDLE, with the mode that its code carries; in any other state no step takes
it, a reset included; a request with the reserved code is refused. -/
def Obligations.RequestsWaitWhileBusy : Prop :=
  (∀ s t : State, s.st ≠ .idle → step s = .next t → t.req = s.req) ∧
  (∀ (s : State) (c : ReqCode) (rest : List ReqCode), s.cfg.admissible = true → resetNow s = false → s.st = .idle →
    s.req = c :: rest →
    (∀ m, modeOf c = some m → ∃ t, step s = .next t ∧ t.mode = m ∧ t.st = .fill ∧ t.req = rest) ∧
    (modeOf c = none ↔ c = 0b11#2) ∧ (c = 0b11#2 → step s = .refused .reservedRequestMode))

/-- R154: TAG. -/
def Obligations.TagStartsALegacyTag : Prop :=
  ∀ (s : State) (w3 : Byte), s.st = .classify → s.w = ⟨0x54#8, 0x41#8, 0x47#8, w3⟩ →
    decodeWindow s.cfg s.w.word = .tag w3 ∧
    exec (.tag w3) s = .next { s with
      kind := .id3v1, buf := [0x54#8, 0x41#8, 0x47#8, w3], need := 124, st := .body }

/-- R155: ID3. -/
def Obligations.Id3StartsAnExtendedTag : Prop :=
  ∀ (s : State) (w3 : Byte), s.st = .classify → s.w = ⟨0x49#8, 0x44#8, 0x33#8, w3⟩ →
    decodeWindow s.cfg s.w.word = .id3 w3 ∧
    exec (.id3 w3) s = .next { s with buf := [0x49#8, 0x44#8, 0x33#8, w3], need := 6, st := .id3hdr }

/-- R158: the nine frame rows, and HD's flags. -/
def Obligations.FrameRowsStartAFrame : Prop :=
  ∀ (s : State) (f : FrameFields) (d : FrameDescriptor) (i : Instr),
    i ∈ [Instr.frameMpeg1LIII f, .frameMpeg1LII f, .frameMpeg1LI f, .frameMpeg2LIII f, .frameMpeg2LII f,
      .frameMpeg2LI f, .frameMpeg25LIII f, .frameMpeg25LII f, .frameMpeg25LI f] →
    s.st = .classify → encode i = .window s.w.word → hd s.cfg s.w.w0 s.w.w1 s.w.w2 s.w.w3 = .ok d →
    decodeWindow s.cfg s.w.word = i ∧ decOk s.cfg s.w.word = true ∧ decCause s.cfg s.w.word = 0#3 ∧
    exec i s = .next { s with
      kind := .frame, desc := some d, buf := [s.w.w0, s.w.w1, s.w.w2, s.w.w3], need := d.frameLength - 4
      st := if d.frameLength - 4 = 0 then .done else .body }

/-- R159: a false sync is a NOMATCH; it advances one byte and does nothing else. -/
def Obligations.FalseSyncShiftsOneByte : Prop :=
  ∀ (s : State) (bits : BitVec 21) (c : Cause), s.st = .classify → s.w.word = syncWord bits →
    hd s.cfg s.w.w0 s.w.w1 s.w.w2 s.w.w3 = .error c →
    decodeWindow s.cfg s.w.word = .falseSync bits ∧ exec (.falseSync bits) s = .next { s with st := .shift } ∧
    decOk s.cfg s.w.word = false ∧ decCause s.cfg s.w.word = c.code

/-- R160: NOMATCH. -/
def Obligations.NomatchShiftsOneByte : Prop :=
  ∀ (s : State), s.st = .classify → ¬ (s.w.w0 = 0x54#8 ∧ s.w.w1 = 0x41#8 ∧ s.w.w2 = 0x47#8) →
    ¬ (s.w.w0 = 0x49#8 ∧ s.w.w1 = 0x44#8 ∧ s.w.w2 = 0x33#8) →
    ¬ (s.w.w0 = 0xFF#8 ∧ s.w.w1 &&& 0xE0#8 = 0xE0#8) →
    decodeWindow s.cfg s.w.word = .noMatch s.w.word ∧ exec (.noMatch s.w.word) s = .next { s with st := .shift }

/-! ### The steps of SC -/

/-- A step runs what SC decodes: the offered request in IDLE, the window in CLASSIFY, the state's own step elsewhere
(R150, R151, R153). -/
def Obligations.StepRunsTheDecodedInstruction : Prop :=
  ∀ s : State, s.cfg.admissible = true → resetNow s = false →
    (∀ c rest, s.st = .idle → s.req = c :: rest → step s = exec (decodeRequest c) (sampleReset s)) ∧
    (s.st = .idle → s.req = [] → step s = .next (sampleReset s)) ∧
    (s.st = .classify → step s = exec (decodeWindow s.cfg s.w.word) (sampleReset s)) ∧
    (s.st ≠ .idle → s.st ≠ .classify → step s = internalStep (sampleReset s))

/-- R153: CLASSIFY takes exactly one of four actions, by the window's bytes, and reads no byte. -/
def Obligations.ClassifyTakesOneOfFourActions : Prop :=
  ∀ s : State, s.cfg.admissible = true → resetNow s = false → s.st = .classify →
    let t := sampleReset s
    let isTag := s.w.w0 = 0x54#8 ∧ s.w.w1 = 0x41#8 ∧ s.w.w2 = 0x47#8
    let isId3 := s.w.w0 = 0x49#8 ∧ s.w.w1 = 0x44#8 ∧ s.w.w2 = 0x33#8
    let sync := s.w.w0 = 0xFF#8 ∧ s.w.w1 &&& 0xE0#8 = 0xE0#8
    (isTag → step s = .next { t with kind := .id3v1, buf := s.w.bytes, need := 124, st := .body }) ∧
    (¬ isTag → isId3 → step s = .next { t with buf := s.w.bytes, need := 6, st := .id3hdr }) ∧
    (¬ isTag → ¬ isId3 → sync → ∀ d, hd s.cfg s.w.w0 s.w.w1 s.w.w2 s.w.w3 = .ok d →
      step s = .next { t with
        kind := .frame, desc := some d, buf := s.w.bytes, need := d.frameLength - 4
        st := if d.frameLength - 4 = 0 then .done else .body }) ∧
    (¬ isTag → ¬ isId3 → (¬ sync ∨ ∃ c, hd s.cfg s.w.w0 s.w.w1 s.w.w2 s.w.w3 = .error c) →
      step s = .next { t with st := .shift })

/-- R152: FILL. -/
def Obligations.FillReadsAWindowByte : Prop :=
  ∀ s : State, s.cfg.admissible = true → resetNow s = false → s.st = .fill → s.n < 4 →
    let t := sampleReset s
    (s.src = [] → step s = .next t) ∧
    (∀ rest, s.src = .ended :: rest → step s = .next { t with
      src := rest, buf := [], need := 0, kind := .none, desc := none, st := .eosr }) ∧
    (∀ b rest, s.src = .byte b :: rest → step s = .next { t with
      src := rest, pos := s.pos + 1, n := s.n + 1, st := if s.n + 1 = 4 then .classify else .fill
      w := { w0 := if s.n = 0 then b else s.w.w0, w1 := if s.n = 1 then b else s.w.w1
             w2 := if s.n = 2 then b else s.w.w2, w3 := if s.n = 3 then b else s.w.w3 } })

/-- R161: SHIFT: exactly one byte, the oldest, is discarded. -/
def Obligations.ShiftAdvancesByOneByte : Prop :=
  ∀ s : State, s.cfg.admissible = true → resetNow s = false → s.st = .shift →
    let t := sampleReset s
    (s.src = [] → step s = .next t) ∧
    (∀ rest, s.src = .ended :: rest → step s = .next { t with
      src := rest, buf := [], need := 0, kind := .none, desc := none, st := .eosr }) ∧
    (∀ b rest, s.src = .byte b :: rest → step s = .next { t with
      src := rest, pos := s.pos + 1, st := .classify, w := ⟨s.w.w1, s.w.w2, s.w.w3, b⟩ })

/-- R156: ID3HDR; the sixth byte completes the header and gives the size. -/
def Obligations.HeaderBytesOfAnExtendedTag : Prop :=
  ∀ s : State, s.cfg.admissible = true → resetNow s = false → s.st = .id3hdr →
    let t := sampleReset s
    (s.src = [] → step s = .next t) ∧
    (∀ rest, s.src = .ended :: rest → step s = .next { t with
      src := rest, buf := [], need := 0, kind := .none, desc := none, st := .eosr }) ∧
    (∀ b rest, s.src = .byte b :: rest → 2 ≤ s.need → step s = .next { t with
      src := rest, pos := s.pos + 1, buf := s.buf ++ [b], need := s.need - 1 }) ∧
    (∀ b rest s6 s7 s8, s.src = .byte b :: rest → s.need = 1 → s.buf[6]? = some s6 → s.buf[7]? = some s7 →
      s.buf[8]? = some s8 → step s = .next { t with
        src := rest, pos := s.pos + 1, buf := s.buf ++ [b], kind := .id3v2, need := synchsafe s6 s7 s8 b
        st := if synchsafe s6 s7 s8 b = 0 then .done else .body })

/-- R162: BODY. -/
def Obligations.BodyReadsTheRemainingBytes : Prop :=
  ∀ s : State, s.cfg.admissible = true → resetNow s = false → s.st = .body → 1 ≤ s.need →
    let t := sampleReset s
    (s.src = [] → step s = .next t) ∧
    (∀ rest, s.src = .ended :: rest → step s = .next { t with
      src := rest, buf := [], need := 0, kind := .none, desc := none, st := .eosr }) ∧
    (∀ b rest, s.src = .byte b :: rest → step s = .next { t with
      src := rest, pos := s.pos + 1, buf := s.buf ++ [b], need := s.need - 1
      st := if s.need - 1 = 0 then .done else .body })

/-- R163: DONE emits an object that `mode` accepts, once CON accepts it, and discards any other. -/
def Obligations.DoneEmitsOrDiscards : Prop :=
  ∀ s : State, s.cfg.admissible = true → resetNow s = false → s.st = .done →
    let t := sampleReset s
    let accepted := s.mode = .any ∨ (s.mode = .frameOnly ∧ s.kind = .frame) ∨ (s.mode = .id3v2Only ∧ s.kind = .id3v2)
    let emits (o : Obj) := (s.acks = 0 → step s = .next t) ∧
      ∀ k, s.acks = k + 1 → step s = .next { t with outs := s.outs ++ [o], acks := k, st := .idle }
    (accepted → s.kind = .frame → ∀ d, s.desc = some d → emits (.frame d s.buf)) ∧
    (accepted → s.kind = .id3v1 → emits (.legacyTag s.buf)) ∧
    (accepted → s.kind ≠ .frame → s.kind ≠ .id3v1 → emits (.extendedTag s.buf)) ∧
    (¬ accepted → step s = .next { t with
      n := 0, kind := .none, desc := none, buf := [], need := 0, st := .fill })

/-- R205: EOSR reports end-of-stream once, when CON accepts, and returns to IDLE. -/
def Obligations.EosrReportsEndOfStream : Prop :=
  ∀ s : State, s.cfg.admissible = true → resetNow s = false → s.st = .eosr →
    (s.acks = 0 → step s = .next (sampleReset s)) ∧
    (∀ k, s.acks = k + 1 → step s = .next { sampleReset s with
      outs := s.outs ++ [.endOfStream], acks := k, st := .idle })

/-- R203 and R204: end-of-stream is entered exactly when SRC answers `End` to the read of FILL, SHIFT, ID3HDR or BODY;
the partial object is discarded, and `mode`, `W`, `n` and `pos` are kept. -/
def Obligations.EndOfStreamEntry : Prop :=
  ∀ s : State, s.cfg.admissible = true → resetNow s = false →
    (∀ rest, s.st = .fill ∨ s.st = .shift ∨ s.st = .id3hdr ∨ s.st = .body → s.src = .ended :: rest →
      step s = .next { sampleReset s with
        src := rest, buf := [], need := 0, kind := .none, desc := none, st := .eosr }) ∧
    (∀ t, step s = .next t → t.st = .eosr → s.st ≠ .eosr →
      (s.st = .fill ∨ s.st = .shift ∨ s.st = .id3hdr ∨ s.st = .body) ∧ s.src = .ended :: t.src)

/-! ### Rules about every step -/

/-- R150: SC moves between its control states only as the state graph says; a step that stays where the graph has no
loop is one that holds, and changes nothing (R16). -/
def Obligations.StateGraph : Prop :=
  let graph : Ctl → List Ctl := fun
    | .idle => [.fill]
    | .fill => [.fill, .classify, .eosr]
    | .classify => [.body, .id3hdr, .done, .shift]
    | .shift => [.classify, .eosr]
    | .id3hdr => [.id3hdr, .body, .done, .eosr]
    | .body => [.body, .done, .eosr]
    | .done => [.idle, .fill]
    | .eosr => [.idle]
  ∀ s t : State, step s = .next t →
    (resetNow s = true → t.st = .idle) ∧ (resetNow s = false → t.st ∈ graph s.st ∨ t = sampleReset s)

/-- R51: the source is read only in FILL, SHIFT, ID3HDR and BODY, at most one answer per step, in order; each byte
read leaves the source and advances `pos` by 1, `End` advances nothing, a reset reads nothing; and a step whose read
has no answer holds. -/
def Obligations.SourceIsReadByteByByte : Prop :=
  ∀ s t : State, step s = .next t →
    (resetNow s = true → t.src = s.src) ∧
    (resetNow s = false →
      (t.src = s.src ∧ t.pos = s.pos) ∨
      ((s.st = .fill ∨ s.st = .shift ∨ s.st = .id3hdr ∨ s.st = .body) ∧
        ((∃ b, s.src = .byte b :: t.src ∧ t.pos = s.pos + 1) ∨ (s.src = .ended :: t.src ∧ t.pos = s.pos)))) ∧
    (resetNow s = false → s.st = .fill ∨ s.st = .shift ∨ s.st = .id3hdr ∨ s.st = .body → s.src = [] →
      t = sampleReset s)

/-- R34 and R58: an emission appends exactly one object to the history, takes exactly one acceptance of CON, and
happens only on the way from DONE or EOSR to IDLE; no other step but reset touches the history. -/
def Obligations.EmissionAppendsOneObject : Prop :=
  ∀ s t : State, step s = .next t → resetNow s = false →
    (t.outs = s.outs ∧ t.acks = s.acks ∧ (t.st = .idle → s.st = .idle)) ∨
    (∃ o, t.outs = s.outs ++ [o] ∧ s.acks = t.acks + 1 ∧ (s.st = .done ∨ s.st = .eosr) ∧ t.st = .idle)

/-- R21 to R28 and R35: which steps write which register. No step but reset writes the window outside FILL and SHIFT,
the fill count outside the start of a fill and FILL, the mode outside ACCEPT; bytes are only appended to the buffer
while an object is read; the configuration is never written. -/
def Obligations.WhoWritesWhichRegister : Prop :=
  ∀ s t : State, step s = .next t → t.cfg = s.cfg ∧ (resetNow s = false →
    (t.w ≠ s.w → s.st = .fill ∨ s.st = .shift) ∧
    (t.n ≠ s.n → s.st = .idle ∨ s.st = .fill ∨ s.st = .done) ∧
    (t.mode ≠ s.mode → s.st = .idle) ∧
    (t.kind ≠ s.kind → s.st = .idle ∨ s.st = .classify ∨ s.st = .done ∨ t.st = .eosr ∨
      (s.st = .id3hdr ∧ t.kind = .id3v2)) ∧
    (t.desc ≠ s.desc → s.st = .idle ∨ s.st = .classify ∨ s.st = .done ∨ t.st = .eosr) ∧
    (t.buf ≠ s.buf → s.st = .idle ∨ s.st = .classify ∨ s.st = .done ∨ t.st = .eosr ∨
      ((s.st = .id3hdr ∨ s.st = .body) ∧ ∃ b, t.buf = s.buf ++ [b])) ∧
    (t.need ≠ s.need → s.st = .idle ∨ s.st = .classify ∨ s.st = .done ∨ t.st = .eosr ∨
      (s.st = .body ∧ t.need + 1 = s.need) ∨ (s.st = .id3hdr ∧ (t.need + 1 = s.need ∨ t.kind = .id3v2))))

/-- R165, a derived property: every CLASSIFY is entered by reading a byte, and never repeated without one: between
two CLASSIFY steps of a run at least one byte is consumed. -/
def Obligations.ForwardProgress : Prop :=
  ∀ (k : Nat) (s t : State), s.rst = [] → s.st = .classify → t.st = .classify → 0 < k → run k s = .next t →
    s.pos < t.pos

/-- Every step keeps the invariant, from every state that meets it: the fill count, the window full before it is
classified, the buffer starting with the window, the bytes still needed, the kind's own first bytes, and every emitted
object as R33 says. -/
def Obligations.StepKeepsInvariant : Prop :=
  ∀ s t : State, Inv s → step s = .next t → Inv t

/-- The state after reset meets the invariant. -/
def Obligations.ResetMeetsInvariant : Prop := Inv State.reset

/-- MFHD has no fault (93_implementation_defined.md): from a state that meets the invariant no step faults, and the
only refusal is that of a request with the reserved mode code, in IDLE. -/
def Obligations.NoStepFaults : Prop :=
  ∀ s : State, Inv s →
    (∀ f, step s ≠ .fault f) ∧
    (∀ r, step s = .refused r → r = .reservedRequestMode ∧ s.st = .idle ∧ ∃ rest, s.req = 0b11#2 :: rest)

/-- R33: every object a run emits is well-formed: a frame is exactly as long as its descriptor says and begins with
the header that decodes to it, a Legacy Tag has 128 bytes, an Extended Tag 10 and its declared size. -/
def Obligations.EmittedObjectsAreWellFormed : Prop :=
  ∀ (k : Nat) (s t : State), Inv s → run k s = .next t → ∀ o ∈ t.outs, ObjectOk s.cfg o

/-! ### Requests as whole operations -/

/-- R165 and R170, derived properties: a request that is accepted ends in exactly one emission, within `3·|src| + 2`
steps, provided that CON accepts and that the answers of SRC contain an `End`; before it, SC is not in IDLE and has
emitted nothing. -/
def Obligations.EveryRequestEndsInOneEmission : Prop :=
  ∀ (s : State) (c : ReqCode) (rest : List ReqCode), Inv s → s.rst = [] → s.st = .idle → s.req = c :: rest →
    c ≠ 0b11#2 → 0 < s.acks → .ended ∈ s.src →
    ∃ k t, k ≤ 3 * s.src.length + 2 ∧ run k s = .next t ∧ t.st = .idle ∧ t.req = rest ∧
      (∃ o, t.outs = s.outs ++ [o]) ∧
      ∀ j u, 0 < j → j < k → run j s = .next u → u.st ≠ .idle ∧ u.outs = s.outs

/-- R164 and the source's Guarantee: the machine refines the source's algorithm: a request emits what `nextObject`,
repeated with the non-target results dropped, finds from the current source position, and consumes exactly the same
bytes. -/
def Obligations.RequestRefinesNextObject : Prop :=
  ∀ (s : State) (c : ReqCode) (rest : List ReqCode) (m : Mode) (fuel : Nat) (f : Found), s.cfg.admissible = true →
    s.rst = [] → s.st = .idle → s.req = c :: rest → modeOf c = some m → 0 < s.acks →
    nextPassing s.cfg m fuel s.src = some f →
    ∃ k t, run k s = .next t ∧ t.st = .idle ∧ t.outs = s.outs ++ [f.obj] ∧ t.src = f.rest ∧
      t.pos = s.pos + f.taken ∧ t.req = rest

/-- R167, a derived property: N frames end to end and N SCAN requests give the N frames in order, with zero drift. -/
def Obligations.BackToBackFrames : Prop :=
  ∀ (frames : List (FrameDescriptor × List Byte)) (s : State) (reqs : List ReqCode) (rest : List SrcAnswer),
    s.cfg.admissible = true → s.rst = [] → s.st = .idle →
    (∀ x ∈ frames, x.2.length = x.1.frameLength ∧ StartsFrame s.cfg x.1 x.2) →
    s.src = ((frames.map Prod.snd).flatten.map SrcAnswer.byte) ++ rest →
    s.req = List.replicate frames.length 0b00#2 ++ reqs → frames.length ≤ s.acks →
    ∃ k t, run k s = .next t ∧ t.st = .idle ∧ t.src = rest ∧ t.req = reqs ∧
      t.outs = s.outs ++ frames.map (fun x => Obj.frame x.1 x.2) ∧
      t.pos = s.pos + (frames.map fun x => x.2.length).sum

/-- R169, a derived property: a source that gives `End` before the last byte of a recognised object makes the
request emit EndOfStream and nothing else. -/
def Obligations.TruncatedObjectEndsTheRequest : Prop :=
  ∀ (s : State) (bytes : List Byte) (rest : List SrcAnswer), s.cfg.admissible = true → s.rst = [] →
    s.st = .id3hdr ∨ s.st = .body → bytes.length < s.need → s.src = bytes.map SrcAnswer.byte ++ .ended :: rest →
    0 < s.acks →
    ∃ t, run (bytes.length + 2) s = .next t ∧ t.st = .idle ∧ t.outs = s.outs ++ [.endOfStream] ∧ t.src = rest ∧
      t.pos = s.pos + bytes.length ∧ t.req = s.req ∧ t.buf = [] ∧ t.kind = .none ∧ t.desc = none ∧ t.w = s.w

/-- R38 and I17: the leftovers of an earlier request are never observed: two states in IDLE that differ only in `W`,
`n`, `mode`, `kind`, `need`, `buf` and `desc` stay alike in everything that SRC and CON can see, for ever. -/
def Obligations.LeftoversAreNeverObserved : Prop :=
  ∀ (k : Nat) (s s' : State), s.st = .idle → s.seen = s'.seen → seenOutcome (run k s) = seenOutcome (run k s')

/-! ### The port level -/

/-- R62: every edge keeps the invariant of the streaming realisation (one edge per internal step, assumption 7): the
payload bytes delivered and pending are the buffer of the object being assembled, when the request accepts its kind;
nothing is streamed of any other object. -/
def Obligations.PortEdgeKeepsInvariant : Prop :=
  ∀ (i : PortIn) (p : PortState), PortInv p → PortInv (edge i p)

/-- The realisation starts in its invariant. -/
def Obligations.PortResetMeetsInvariant : Prop := PortInv PortState.reset

/-- R62: the commit carries the object: when a commit is offered, what CON has been delivered is exactly the payload,
`obj_kind` is its kind, and the transfer appends that object to the history. `obj_len` is the payload's length wherever
its 29 bits hold it, as they do under the default tables; what it shows of a longer object is open (assumption 18). -/
def Obligations.CommitCarriesTheDeliveredPayload : Prop :=
  ∀ (i : PortIn) (p : PortState), PortInv p → (outputs i p).objValid = true → p.sc.st = .done →
    ∃ o, (p.delivered.length < 2 ^ 29 → (outputs i p).objLen.toNat = p.delivered.length) ∧
      (p.sc.cfg = Config.default → p.delivered.length < 2 ^ 29) ∧ (outputs i p).objKind = o.portKind ∧ o ≠ .endOfStream ∧
      o.payload = p.delivered ∧ ObjectOk p.sc.cfg o ∧
      (i.objReady = true → (edge i p).sc.outs = p.sc.outs ++ [o] ∧ (edge i p).sc.st = .idle) ∧
      (i.objReady = false → (edge i p).sc.regs = p.sc.regs)

/-- The handshakes of R61, and what R16, R51, R60 and R62 say of the edge between them. A request transfers exactly with `req_valid` and `req_ready`; a `SrcRead()` is answered
with `src_req` and `src_end` or `src_valid`, `src_end` winning, and the byte is `src_data`; a payload byte transfers
exactly with `pay_valid` and `pay_ready`, an object exactly with `obj_valid` and `obj_ready`; where the awaited
transfer does not happen, SC's registers do not change. That SC stands still while a payload byte is pending, and that
one edge makes one step, are the model's choice (assumption 7). -/
def Obligations.PortHandshakes : Prop :=
  ∀ (i : PortIn) (p : PortState), PortInv p → i.rst = false →
    (p.sc.st = .idle →
      ((edge i p).sc.st = .fill ↔ i.reqValid = true ∧ (outputs i p).reqReady = true) ∧
      (¬ (i.reqValid = true ∧ (outputs i p).reqReady = true) → (edge i p).sc.regs = p.sc.regs)) ∧
    ((outputs i p).srcReq = true →
      (i.srcEnd = true → (edge i p).sc.st = .eosr ∧ (edge i p).sc.pos = p.sc.pos) ∧
      (i.srcEnd = false → i.srcValid = true → (edge i p).sc.pos = p.sc.pos + 1 ∧
        ∃ t, step (p.sc.withEnv [.byte i.srcData] [] 0 []) = .next t ∧ (edge i p).sc.regs = t.regs) ∧
      (i.srcEnd = false → i.srcValid = false → (edge i p).sc.regs = p.sc.regs)) ∧
    ((outputs i p).payValid = true →
      (edge i p).sc = p.sc ∧
      (i.payReady = true → (edge i p).delivered = p.delivered ++ [(outputs i p).payData] ∧
        p.pend = (outputs i p).payData :: (edge i p).pend) ∧
      (i.payReady = false → (edge i p).delivered = p.delivered ∧ (edge i p).pend = p.pend)) ∧
    ((∃ o, (edge i p).sc.outs = p.sc.outs ++ [o]) ↔ (outputs i p).objValid = true ∧ i.objReady = true) ∧
    ((outputs i p).objValid = true → i.objReady = false → (edge i p).sc.regs = p.sc.regs)

/-- The opening of section 6 of 20_memory.md: the sequence of transactions that the port level makes equals one of the
transaction level. `transfers is p` are those of the edges `is` from `p` (`transfersAt` gives one edge's): the answer
`srcAnswers` where `src_req` meets `src_valid` or `src_end`, the code `req_mode` where `req_valid` meets `req_ready`, one
acceptance where `obj_valid` meets `obj_ready`, and the reset input of every edge at which SC does not stand still
(`moves`). From a state in the invariant, the run of exactly as many steps on exactly these transactions reaches the
registers that the edges reach, and consumes all of them. One edge for one step is the model's choice (assumption 7). -/
def Obligations.PortRunIsATransactionRun : Prop :=
  ∀ (is : List PortIn) (p : PortState), PortInv p →
    let x := transfers is p
    ∃ t, run x.rst.length (p.sc.withEnv x.src x.req x.acks x.rst) = .next t ∧ t.regs = (edgesRun is p).sc.regs ∧
      t.src = [] ∧ t.req = [] ∧ t.acks = 0 ∧ t.rst = []

/-- R62, R230 and the last bullet of R231: the edge with `rst = 1`, whatever else the ports carry and whatever is being
streamed: SC is reset, nothing is pending, and CON has discarded what it held of an object. That the edge is counted is
the model's own (assumption 8), and that it needs no other edge before it is assumption 7. -/
def Obligations.ResetEdgeAbandonsTheStreamedPayload : Prop :=
  ∀ (i : PortIn) (p : PortState), p.sc.cfg.admissible = true → i.rst = true →
    edge i p = { sc := { State.reset with cfg := p.sc.cfg }, pend := [], delivered := [], edges := p.edges + 1 }

/-- R60 and R62: the abort. At EOSR it is offered, `obj_kind` 11 and `obj_len` 0, with nothing left on the payload
channel; its transfer is the EndOfStream of the history, and CON discards what it holds; until then nothing changes. That
the abort is offered at the first edge after the entry to EOSR, and taken in one, is the model's choice (assumption 7). -/
def Obligations.AbortIsTheEndOfStreamObject : Prop :=
  ∀ (i : PortIn) (p : PortState), PortInv p → i.rst = false → p.sc.st = .eosr →
    (outputs i p).objValid = true ∧ (outputs i p).objKind = 0b11#2 ∧ (outputs i p).objLen = 0#29 ∧
    (outputs i p).payValid = false ∧ (outputs i p).srcReq = false ∧ (outputs i p).reqReady = false ∧
    (i.objReady = true → (edge i p).sc.outs = p.sc.outs ++ [.endOfStream] ∧ (edge i p).sc.st = .idle ∧
      (edge i p).delivered = []) ∧
    (i.objReady = false → (edge i p).sc.regs = p.sc.regs ∧ (edge i p).delivered = p.delivered)

/-- R60: the ports of a frame commit: `obj_kind` 00, the raw codes of the header that begins the delivered payload
(assumption 15), and the fields of the descriptor that HD gives it; the sample count fits its 11 bits. -/
def Obligations.FrameCommitShowsTheDescriptor : Prop :=
  ∀ (i : PortIn) (p : PortState), PortInv p → (outputs i p).objValid = true → p.sc.st = .done → p.sc.kind = .frame →
    ∃ d b0 b1 b2 b3 rest, p.sc.desc = some d ∧ p.delivered = b0 :: b1 :: b2 :: b3 :: rest ∧
      hd p.sc.cfg b0 b1 b2 b3 = .ok d ∧ (outputs i p).objKind = 0b00#2 ∧
      (outputs i p).desc =
        { dVersion := b1.extractLsb' 3 2, dLayer := b1.extractLsb' 1 2, dCrcProtected := d.crcProtected
          dBitrate := d.bitRate, dSamplingRate := d.samplingRate, dPadded := d.padded, dPrivate := d.privateBit
          dCopyright := d.copyright, dOriginal := d.original, dChannelMode := b3.extractLsb' 6 2
          dModeExt := b3.extractLsb' 4 2, dEmphasis := b3.extractLsb' 0 2
          dSampleCount := BitVec.ofNat 11 d.sampleCount, dFrameLength := d.frameLength } ∧
      (outputs i p).desc.dSampleCount.toNat = d.sampleCount

/-- R37 and R60: in CLASSIFY, for a window with frame sync, the diagnostic ports show HD's flags for it, with the cause
codes of R77. (Elsewhere they show any value: I16, assumption 8.) -/
def Obligations.DiagnosticPortsShowHdFlags : Prop :=
  ∀ (i : PortIn) (p : PortState), p.sc.st = .classify → hasSync p.sc.w.word = true →
    let answer := hd p.sc.cfg p.sc.w.w0 p.sc.w.w1 p.sc.w.w2 p.sc.w.w3
    ((outputs i p).dbgDecOk = true ↔ ∃ d, answer = .ok d) ∧
    (∀ d, answer = .ok d → (outputs i p).dbgDecCause = 0#3) ∧
    (answer = .error .badVersion → (outputs i p).dbgDecCause = 1#3) ∧
    (answer = .error .badLayer → (outputs i p).dbgDecCause = 2#3) ∧
    (answer = .error .badBitrate → (outputs i p).dbgDecCause = 3#3) ∧
    (answer = .error .badSampleRate → (outputs i p).dbgDecCause = 4#3) ∧
    (answer = .error .badModeExt → (outputs i p).dbgDecCause = 5#3) ∧
    (answer = .error .badEmphasis → (outputs i p).dbgDecCause = 6#3)

/-- R60: the three ports that a configuration may widen hold what they show, offered or open; under the default tables
their widths are the 19, 16 and 12 bits of the rule. How far a configuration widens them is the model's choice
(assumption 18). -/
def Obligations.PortsHoldWhatTheyShow : Prop :=
  (∀ (i : PortIn) (p : PortState), PortInv p →
    (outputs i p).desc.dBitrate < 2 ^ p.sc.cfg.bitrateWidth ∧
    (outputs i p).desc.dSamplingRate < 2 ^ p.sc.cfg.samplingRateWidth ∧
    (outputs i p).desc.dFrameLength < 2 ^ p.sc.cfg.frameLengthWidth) ∧
  Config.default.bitrateWidth = 19 ∧ Config.default.samplingRateWidth = 16 ∧ Config.default.frameLengthWidth = 12

/-- R38 as a step lemma: two states that agree in all that is read before it is written (`Agree`; in IDLE, in what SRC and
CON can see alone) take the same step: both answer next states that agree again, or both stop, for the same reason. -/
def Obligations.StepKeepsAgreement : Prop :=
  ∀ s s' : State, Agree s s' →
    (∃ t t', step s = .next t ∧ step s' = .next t' ∧ Agree t t') ∨
    (∃ f, step s = .fault f ∧ step s' = .fault f) ∨ (∃ r, step s = .refused r ∧ step s' = .refused r)
end

