-- ==== Sys2Proof/Laws/State.lean ====
section
/-!
SUPPORT. One lemma per field and update of `State`, true by definition, so that no later proof unfolds a record update.
-/

namespace Sys2Proof.Machine

@[simp] theorem clearObject_cfg (s : State) : (clearObject s).cfg = s.cfg := rfl
@[simp] theorem clearObject_st (s : State) : (clearObject s).st = s.st := rfl
@[simp] theorem clearObject_w (s : State) : (clearObject s).w = s.w := rfl
@[simp] theorem clearObject_n (s : State) : (clearObject s).n = s.n := rfl
@[simp] theorem clearObject_mode (s : State) : (clearObject s).mode = s.mode := rfl
@[simp] theorem clearObject_kind (s : State) : (clearObject s).kind = .none := rfl
@[simp] theorem clearObject_need (s : State) : (clearObject s).need = 0 := rfl
@[simp] theorem clearObject_buf (s : State) : (clearObject s).buf = [] := rfl
@[simp] theorem clearObject_desc (s : State) : (clearObject s).desc = none := rfl
@[simp] theorem clearObject_pos (s : State) : (clearObject s).pos = s.pos := rfl
@[simp] theorem clearObject_outs (s : State) : (clearObject s).outs = s.outs := rfl
@[simp] theorem clearObject_src (s : State) : (clearObject s).src = s.src := rfl
@[simp] theorem clearObject_req (s : State) : (clearObject s).req = s.req := rfl
@[simp] theorem clearObject_acks (s : State) : (clearObject s).acks = s.acks := rfl
@[simp] theorem clearObject_rst (s : State) : (clearObject s).rst = s.rst := rfl

@[simp] theorem startFill_cfg (s : State) : (startFill s).cfg = s.cfg := rfl
@[simp] theorem startFill_st (s : State) : (startFill s).st = .fill := rfl
@[simp] theorem startFill_w (s : State) : (startFill s).w = s.w := rfl
@[simp] theorem startFill_n (s : State) : (startFill s).n = 0 := rfl
@[simp] theorem startFill_mode (s : State) : (startFill s).mode = s.mode := rfl
@[simp] theorem startFill_kind (s : State) : (startFill s).kind = .none := rfl
@[simp] theorem startFill_need (s : State) : (startFill s).need = 0 := rfl
@[simp] theorem startFill_buf (s : State) : (startFill s).buf = [] := rfl
@[simp] theorem startFill_desc (s : State) : (startFill s).desc = none := rfl
@[simp] theorem startFill_pos (s : State) : (startFill s).pos = s.pos := rfl
@[simp] theorem startFill_outs (s : State) : (startFill s).outs = s.outs := rfl
@[simp] theorem startFill_src (s : State) : (startFill s).src = s.src := rfl
@[simp] theorem startFill_req (s : State) : (startFill s).req = s.req := rfl
@[simp] theorem startFill_acks (s : State) : (startFill s).acks = s.acks := rfl
@[simp] theorem startFill_rst (s : State) : (startFill s).rst = s.rst := rfl

@[simp] theorem gotoEos_cfg (s : State) : (gotoEos s).cfg = s.cfg := rfl
@[simp] theorem gotoEos_st (s : State) : (gotoEos s).st = .eosr := rfl
@[simp] theorem gotoEos_w (s : State) : (gotoEos s).w = s.w := rfl
@[simp] theorem gotoEos_n (s : State) : (gotoEos s).n = s.n := rfl
@[simp] theorem gotoEos_mode (s : State) : (gotoEos s).mode = s.mode := rfl
@[simp] theorem gotoEos_kind (s : State) : (gotoEos s).kind = .none := rfl
@[simp] theorem gotoEos_need (s : State) : (gotoEos s).need = 0 := rfl
@[simp] theorem gotoEos_buf (s : State) : (gotoEos s).buf = [] := rfl
@[simp] theorem gotoEos_desc (s : State) : (gotoEos s).desc = none := rfl
@[simp] theorem gotoEos_pos (s : State) : (gotoEos s).pos = s.pos := rfl
@[simp] theorem gotoEos_outs (s : State) : (gotoEos s).outs = s.outs := rfl
@[simp] theorem gotoEos_src (s : State) : (gotoEos s).src = s.src := rfl
@[simp] theorem gotoEos_req (s : State) : (gotoEos s).req = s.req := rfl
@[simp] theorem gotoEos_acks (s : State) : (gotoEos s).acks = s.acks := rfl
@[simp] theorem gotoEos_rst (s : State) : (gotoEos s).rst = s.rst := rfl

@[simp] theorem resetRegs_cfg (s : State) : (resetRegs s).cfg = s.cfg := rfl
@[simp] theorem resetRegs_st (s : State) : (resetRegs s).st = .idle := rfl
@[simp] theorem resetRegs_w (s : State) : (resetRegs s).w = ⟨0x00#8, 0x00#8, 0x00#8, 0x00#8⟩ := rfl
@[simp] theorem resetRegs_n (s : State) : (resetRegs s).n = 0 := rfl
@[simp] theorem resetRegs_mode (s : State) : (resetRegs s).mode = .any := rfl
@[simp] theorem resetRegs_kind (s : State) : (resetRegs s).kind = .none := rfl
@[simp] theorem resetRegs_need (s : State) : (resetRegs s).need = 0 := rfl
@[simp] theorem resetRegs_buf (s : State) : (resetRegs s).buf = [] := rfl
@[simp] theorem resetRegs_desc (s : State) : (resetRegs s).desc = none := rfl
@[simp] theorem resetRegs_pos (s : State) : (resetRegs s).pos = 0 := rfl
@[simp] theorem resetRegs_outs (s : State) : (resetRegs s).outs = [] := rfl
@[simp] theorem resetRegs_src (s : State) : (resetRegs s).src = s.src := rfl
@[simp] theorem resetRegs_req (s : State) : (resetRegs s).req = s.req := rfl
@[simp] theorem resetRegs_acks (s : State) : (resetRegs s).acks = s.acks := rfl
@[simp] theorem resetRegs_rst (s : State) : (resetRegs s).rst = s.rst := rfl

@[simp] theorem sampleReset_cfg (s : State) : (sampleReset s).cfg = s.cfg := rfl
@[simp] theorem sampleReset_st (s : State) : (sampleReset s).st = s.st := rfl
@[simp] theorem sampleReset_w (s : State) : (sampleReset s).w = s.w := rfl
@[simp] theorem sampleReset_n (s : State) : (sampleReset s).n = s.n := rfl
@[simp] theorem sampleReset_mode (s : State) : (sampleReset s).mode = s.mode := rfl
@[simp] theorem sampleReset_kind (s : State) : (sampleReset s).kind = s.kind := rfl
@[simp] theorem sampleReset_need (s : State) : (sampleReset s).need = s.need := rfl
@[simp] theorem sampleReset_buf (s : State) : (sampleReset s).buf = s.buf := rfl
@[simp] theorem sampleReset_desc (s : State) : (sampleReset s).desc = s.desc := rfl
@[simp] theorem sampleReset_pos (s : State) : (sampleReset s).pos = s.pos := rfl
@[simp] theorem sampleReset_outs (s : State) : (sampleReset s).outs = s.outs := rfl
@[simp] theorem sampleReset_src (s : State) : (sampleReset s).src = s.src := rfl
@[simp] theorem sampleReset_req (s : State) : (sampleReset s).req = s.req := rfl
@[simp] theorem sampleReset_acks (s : State) : (sampleReset s).acks = s.acks := rfl
@[simp] theorem sampleReset_rst (s : State) : (sampleReset s).rst = s.rst.tail := rfl

@[simp] theorem quiet_cfg (s : State) : (quiet s).cfg = s.cfg := rfl
@[simp] theorem quiet_st (s : State) : (quiet s).st = s.st := rfl
@[simp] theorem quiet_w (s : State) : (quiet s).w = s.w := rfl
@[simp] theorem quiet_n (s : State) : (quiet s).n = s.n := rfl
@[simp] theorem quiet_mode (s : State) : (quiet s).mode = s.mode := rfl
@[simp] theorem quiet_kind (s : State) : (quiet s).kind = s.kind := rfl
@[simp] theorem quiet_need (s : State) : (quiet s).need = s.need := rfl
@[simp] theorem quiet_buf (s : State) : (quiet s).buf = s.buf := rfl
@[simp] theorem quiet_desc (s : State) : (quiet s).desc = s.desc := rfl
@[simp] theorem quiet_pos (s : State) : (quiet s).pos = s.pos := rfl
@[simp] theorem quiet_outs (s : State) : (quiet s).outs = s.outs := rfl
@[simp] theorem quiet_src (s : State) : (quiet s).src = [] := rfl
@[simp] theorem quiet_req (s : State) : (quiet s).req = [] := rfl
@[simp] theorem quiet_acks (s : State) : (quiet s).acks = 0 := rfl
@[simp] theorem quiet_rst (s : State) : (quiet s).rst = [] := rfl

@[simp] theorem offer_cfg (i : PortIn) (s : State) : (offer i s).cfg = s.cfg := rfl
@[simp] theorem offer_st (i : PortIn) (s : State) : (offer i s).st = s.st := rfl
@[simp] theorem offer_w (i : PortIn) (s : State) : (offer i s).w = s.w := rfl
@[simp] theorem offer_n (i : PortIn) (s : State) : (offer i s).n = s.n := rfl
@[simp] theorem offer_mode (i : PortIn) (s : State) : (offer i s).mode = s.mode := rfl
@[simp] theorem offer_kind (i : PortIn) (s : State) : (offer i s).kind = s.kind := rfl
@[simp] theorem offer_need (i : PortIn) (s : State) : (offer i s).need = s.need := rfl
@[simp] theorem offer_buf (i : PortIn) (s : State) : (offer i s).buf = s.buf := rfl
@[simp] theorem offer_desc (i : PortIn) (s : State) : (offer i s).desc = s.desc := rfl
@[simp] theorem offer_pos (i : PortIn) (s : State) : (offer i s).pos = s.pos := rfl
@[simp] theorem offer_outs (i : PortIn) (s : State) : (offer i s).outs = s.outs := rfl
@[simp] theorem offer_src (i : PortIn) (s : State) : (offer i s).src = srcAnswers i := rfl
@[simp] theorem offer_req (i : PortIn) (s : State) : (offer i s).req = if i.reqValid && i.reqMode != 0b11#2 then [i.reqMode] else [] := rfl
@[simp] theorem offer_acks (i : PortIn) (s : State) : (offer i s).acks = if i.objReady then 1 else 0 := rfl
@[simp] theorem offer_rst (i : PortIn) (s : State) : (offer i s).rst = [i.rst] := rfl

@[simp] theorem withEnv_cfg (s : State) (src : List SrcAnswer) (req : List ReqCode) (acks : Nat) (rst : List Bool) : (s.withEnv src req acks rst).cfg = s.cfg := rfl
@[simp] theorem withEnv_st (s : State) (src : List SrcAnswer) (req : List ReqCode) (acks : Nat) (rst : List Bool) : (s.withEnv src req acks rst).st = s.st := rfl
@[simp] theorem withEnv_w (s : State) (src : List SrcAnswer) (req : List ReqCode) (acks : Nat) (rst : List Bool) : (s.withEnv src req acks rst).w = s.w := rfl
@[simp] theorem withEnv_n (s : State) (src : List SrcAnswer) (req : List ReqCode) (acks : Nat) (rst : List Bool) : (s.withEnv src req acks rst).n = s.n := rfl
@[simp] theorem withEnv_mode (s : State) (src : List SrcAnswer) (req : List ReqCode) (acks : Nat) (rst : List Bool) : (s.withEnv src req acks rst).mode = s.mode := rfl
@[simp] theorem withEnv_kind (s : State) (src : List SrcAnswer) (req : List ReqCode) (acks : Nat) (rst : List Bool) : (s.withEnv src req acks rst).kind = s.kind := rfl
@[simp] theorem withEnv_need (s : State) (src : List SrcAnswer) (req : List ReqCode) (acks : Nat) (rst : List Bool) : (s.withEnv src req acks rst).need = s.need := rfl
@[simp] theorem withEnv_buf (s : State) (src : List SrcAnswer) (req : List ReqCode) (acks : Nat) (rst : List Bool) : (s.withEnv src req acks rst).buf = s.buf := rfl
@[simp] theorem withEnv_desc (s : State) (src : List SrcAnswer) (req : List ReqCode) (acks : Nat) (rst : List Bool) : (s.withEnv src req acks rst).desc = s.desc := rfl
@[simp] theorem withEnv_pos (s : State) (src : List SrcAnswer) (req : List ReqCode) (acks : Nat) (rst : List Bool) : (s.withEnv src req acks rst).pos = s.pos := rfl
@[simp] theorem withEnv_outs (s : State) (src : List SrcAnswer) (req : List ReqCode) (acks : Nat) (rst : List Bool) : (s.withEnv src req acks rst).outs = s.outs := rfl
@[simp] theorem withEnv_src (s : State) (src : List SrcAnswer) (req : List ReqCode) (acks : Nat) (rst : List Bool) : (s.withEnv src req acks rst).src = src := rfl
@[simp] theorem withEnv_req (s : State) (src : List SrcAnswer) (req : List ReqCode) (acks : Nat) (rst : List Bool) : (s.withEnv src req acks rst).req = req := rfl
@[simp] theorem withEnv_acks (s : State) (src : List SrcAnswer) (req : List ReqCode) (acks : Nat) (rst : List Bool) : (s.withEnv src req acks rst).acks = acks := rfl
@[simp] theorem withEnv_rst (s : State) (src : List SrcAnswer) (req : List ReqCode) (acks : Nat) (rst : List Bool) : (s.withEnv src req acks rst).rst = rst := rfl

end Sys2Proof.Machine
end

