-- ==== Sys2Proof/Laws/Ops.lean ====
section
/-!
SUPPORT. One lemma per shared operation that says once everything it can do. The provers cite these instead of
unfolding the operations.
-/

namespace Sys2Proof.Machine

@[simp] theorem hold_eq (s : State) : hold s = .next s := rfl

@[simp] theorem noMatch_eq (s : State) : noMatch s = .next { s with st := .shift } := rfl

theorem whenEnabled_enabled {i : Instr} {s : State} {a : State → Result} (h : fetch s = some (encode i)) :
    whenEnabled i s a = a s := by
  simp [whenEnabled, h]

theorem whenEnabled_disabled {i : Instr} {s : State} {a : State → Result} (h : fetch s ≠ some (encode i)) :
    whenEnabled i s a = .next s := by
  simp [whenEnabled, h]

theorem withSrcRead_waiting {s : State} (k : Byte → State → Result) (h : s.src = []) : withSrcRead s k = .next s := by
  simp [withSrcRead, h]

theorem withSrcRead_ended {s : State} {rest : List SrcAnswer} (k : Byte → State → Result)
    (h : s.src = .ended :: rest) : withSrcRead s k = .next (gotoEos { s with src := rest }) := by
  simp [withSrcRead, h]

theorem withSrcRead_byte {s : State} {b : Byte} {rest : List SrcAnswer} (k : Byte → State → Result)
    (h : s.src = .byte b :: rest) : withSrcRead s k = k b { s with src := rest, pos := s.pos + 1 } := by
  simp [withSrcRead, h]

/-- Everything one `SrcRead()` can lead to. -/
theorem withSrcRead_next {s t : State} {k : Byte → State → Result} (h : withSrcRead s k = .next t) :
    (s.src = [] ∧ t = s) ∨
    (∃ rest, s.src = .ended :: rest ∧ t = gotoEos { s with src := rest }) ∨
    (∃ b rest, s.src = .byte b :: rest ∧ k b { s with src := rest, pos := s.pos + 1 } = .next t) := by
  unfold withSrcRead at h
  split at h
  · next hs => exact .inl ⟨hs, by simpa using h.symm⟩
  · next rest hs => exact .inr (.inl ⟨rest, hs, by simpa using h.symm⟩)
  · next b rest hs => exact .inr (.inr ⟨b, rest, hs, h⟩)

theorem emit_accepted {s : State} {k : Nat} (o : Obj) (h : s.acks = k + 1) :
    emit o s = .next { s with outs := s.outs ++ [o], acks := k, st := .idle } := by
  simp [emit, h]

theorem emit_waiting {s : State} (o : Obj) (h : s.acks = 0) : emit o s = .next s := by
  simp [emit, h]

/-- Everything an `Emit` can do: hold, or append the one object and return to IDLE. -/
theorem emit_next {o : Obj} {s t : State} (h : emit o s = .next t) :
    (s.acks = 0 ∧ t = s) ∨ ∃ k, s.acks = k + 1 ∧ t = { s with outs := s.outs ++ [o], acks := k, st := .idle } := by
  unfold emit at h
  split at h
  · next hs => exact .inl ⟨hs, by simpa using h.symm⟩
  · next k hs => exact .inr ⟨k, hs, by simpa using h.symm⟩

theorem classifyFrame_ok {v l : BitVec 2} {f : FrameFields} {s : State} {d : FrameDescriptor}
    (h : decodeFields s.cfg v l f = .ok d) : classifyFrame v l f s = frameMatch d s := by
  simp [classifyFrame, h]

theorem classifyFrame_rejected {v l : BitVec 2} {f : FrameFields} {s : State} {c : Cause}
    (h : decodeFields s.cfg v l f = .error c) : classifyFrame v l f s = .next { s with st := .shift } := by
  simp [classifyFrame, h]

theorem id3HeaderComplete_next {b : Byte} {s t : State} (h : id3HeaderComplete b s = .next t) :
    ∃ s6 s7 s8, s.buf[6]? = some s6 ∧ s.buf[7]? = some s7 ∧ s.buf[8]? = some s8 ∧
      t = { s with
        buf := s.buf ++ [b], kind := .id3v2, need := synchsafe s6 s7 s8 b
        st := if synchsafe s6 s7 s8 b = 0 then .done else .body } := by
  unfold id3HeaderComplete at h
  split at h
  · next s6 s7 s8 h6 h7 h8 => exact ⟨s6, s7, s8, h6, h7, h8, by simpa using h.symm⟩
  · cases h

theorem id3HeaderComplete_eq {b s6 s7 s8 : Byte} {s : State} (h6 : s.buf[6]? = some s6) (h7 : s.buf[7]? = some s7)
    (h8 : s.buf[8]? = some s8) :
    id3HeaderComplete b s = .next { s with
      buf := s.buf ++ [b], kind := .id3v2, need := synchsafe s6 s7 s8 b
      st := if synchsafe s6 s7 s8 b = 0 then .done else .body } := by
  simp [id3HeaderComplete, h6, h7, h8]

/-- What SC decodes, by control state. -/
theorem fetch_request {s : State} {c : ReqCode} (h : fetch s = some (.request c)) :
    s.st = .idle ∧ ∃ rest, s.req = c :: rest := by
  unfold fetch at h
  split at h
  · next hs =>
    refine ⟨hs, ?_⟩
    cases hr : s.req with
    | nil => simp [hr] at h
    | cons a rest => exact ⟨rest, by simp [hr] at h; simp [h]⟩
  · simp at h
  · cases h

theorem fetch_window {s : State} {w : HeaderWord} (h : fetch s = some (.window w)) :
    s.st = .classify ∧ s.w.word = w := by
  unfold fetch at h
  split at h
  · cases hr : s.req <;> simp [hr] at h
  · next hs => exact ⟨hs, by simpa using h⟩
  · cases h

@[simp] theorem fetch_classify {s : State} (h : s.st = .classify) : fetch s = some (.window s.w.word) := by
  simp [fetch, h]

theorem fetch_idle {s : State} (h : s.st = .idle) : fetch s = s.req.head?.map .request := by
  simp [fetch, h]

theorem fetch_none {s : State} (h : fetch s = none) : (s.st = .idle ∧ s.req = []) ∨ (s.st ≠ .idle ∧ s.st ≠ .classify) := by
  unfold fetch at h
  split at h
  · next hs => exact .inl ⟨hs, by cases hr : s.req <;> simp_all⟩
  · cases h
  · next h1 h2 => exact .inr ⟨h1, h2⟩

theorem fetch_other {s : State} (h1 : s.st ≠ .idle) (h2 : s.st ≠ .classify) : fetch s = none := by
  cases hs : s.st <;> simp_all [fetch]

/-- What a step of MFHD is, by its reset input. -/
theorem step_reset {s : State} (hc : s.cfg.admissible = true) (h : resetNow s = true) :
    step s = .next (resetRegs (sampleReset s)) := by
  simp [step, hc, h]

theorem step_running {s : State} (hc : s.cfg.admissible = true) (h : resetNow s = false) :
    step s = scStep (sampleReset s) := by
  simp [step, hc, h]

theorem step_next {s t : State} (h : step s = .next t) :
    s.cfg.admissible = true ∧ ((resetNow s = true ∧ t = resetRegs (sampleReset s)) ∨
      (resetNow s = false ∧ scStep (sampleReset s) = .next t)) := by
  unfold step at h
  split at h
  · cases h
  · next hc =>
    refine ⟨by simpa using hc, ?_⟩
    split at h
    · next hr => exact .inl ⟨hr, by simpa using h.symm⟩
    · next hr => exact .inr ⟨by simpa using hr, h⟩

theorem scStep_fetched {s : State} {e : Encoded} (h : fetch s = some e) : scStep s = exec (decode s.cfg e) s := by
  simp [scStep, h]

theorem scStep_internal {s : State} (h : fetch s = none) : scStep s = internalStep s := by
  simp [scStep, h]

theorem run_succ (k : Nat) (s : State) :
    run (k + 1) s = match step s with | .next s' => run k s' | .fault r => .fault r | .refused r => .refused r := rfl

theorem run_step {k : Nat} {s t : State} (h : step s = .next t) : run (k + 1) s = run k t := by
  simp [run, h]

/-- A run of `a + b` steps is a run of `a` steps and then one of `b`. -/
theorem run_add {a b : Nat} {s t : State} (h : run a s = .next t) : run (a + b) s = run b t := by
  induction a generalizing s with
  | zero => simp only [run, Host.Outcome.next.injEq] at h; simp [h]
  | succ a ih =>
    rw [Nat.add_right_comm]
    cases hs : step s with
    | next s' => rw [run_step hs] at h ⊢; exact ih h
    | fault r => simp [run, hs] at h
    | refused r => simp [run, hs] at h

end Sys2Proof.Machine
end

