-- ==== Sys2Proof/Laws/Decode.lean ====
section
/-!
SUPPORT. Laws of the decoders and the encoder: taking a header apart and putting it together again are inverse, the
signatures exclude each other, HD on a put-together header is HD on its fields, and encoding what a window or a request
code decodes to gives it back.
-/

namespace Sys2Proof

/-! ### Putting a header together and taking it apart -/

theorem frameWord_of_sync {h : HeaderWord} (hs : hasSync h = true) :
    frameWord (versionCode h) (layerCode h) (fieldsOf h) = h := by
  simp only [hasSync, beq_iff_eq] at hs
  rw [frameWord, ← hs]
  simp only [versionCode, layerCode, fieldsOf]
  ext i hi
  simp only [BitVec.getElem_append, BitVec.getElem_extractLsb']
  interval_cases i <;> simp [BitVec.getLsbD_eq_getElem]

theorem syncWord_of_sync {h : HeaderWord} (hs : hasSync h = true) : syncWord (h.extractLsb' 0 21) = h := by
  simp only [hasSync, beq_iff_eq] at hs
  rw [syncWord, ← hs]
  ext i hi
  simp only [BitVec.getElem_append, BitVec.getElem_extractLsb']
  interval_cases i <;> simp [BitVec.getLsbD_eq_getElem]

theorem signature_append_byte (h : HeaderWord) : signature h ++ headerByte h 3 = h := by
  simp only [signature, headerByte]
  ext i hi
  simp only [BitVec.getElem_append, BitVec.getElem_extractLsb']
  interval_cases i <;> simp [BitVec.getLsbD_eq_getElem]

@[simp] theorem signature_append (g : BitVec 24) (b : Byte) : signature (g ++ b) = g := by
  simp only [signature]
  ext i hi
  simp only [BitVec.getElem_extractLsb', BitVec.getLsbD_append]
  interval_cases i <;> simp [BitVec.getLsbD_eq_getElem]

@[simp] theorem headerByte_append (g : BitVec 24) (b : Byte) : headerByte (g ++ b) 3 = b := by
  simp only [headerByte]
  ext i hi
  simp only [BitVec.getElem_extractLsb', BitVec.getLsbD_append]
  interval_cases i <;> simp [BitVec.getLsbD_eq_getElem]

@[simp] theorem hasSync_frameWord (v l : BitVec 2) (f : FrameFields) : hasSync (frameWord v l f) = true := by
  simp only [hasSync, frameWord, beq_iff_eq]
  ext i hi
  simp only [BitVec.getElem_extractLsb', BitVec.getLsbD_append]
  interval_cases i <;> simp

@[simp] theorem hasSync_syncWord (b : BitVec 21) : hasSync (syncWord b) = true := by
  simp only [hasSync, syncWord, beq_iff_eq]
  ext i hi
  simp only [BitVec.getElem_extractLsb', BitVec.getLsbD_append]
  interval_cases i <;> simp

@[simp] theorem extract_syncWord (b : BitVec 21) : (syncWord b).extractLsb' 0 21 = b := by
  simp only [syncWord]
  ext i hi
  simp only [BitVec.getElem_extractLsb', BitVec.getLsbD_append]
  interval_cases i <;> simp [BitVec.getLsbD_eq_getElem]

@[simp] theorem versionCode_frameWord (v l : BitVec 2) (f : FrameFields) : versionCode (frameWord v l f) = v := by
  simp only [versionCode, frameWord]
  ext i hi
  simp only [BitVec.getElem_extractLsb', BitVec.getLsbD_append]
  interval_cases i <;> simp [BitVec.getLsbD_eq_getElem]

@[simp] theorem layerCode_frameWord (v l : BitVec 2) (f : FrameFields) : layerCode (frameWord v l f) = l := by
  simp only [layerCode, frameWord]
  ext i hi
  simp only [BitVec.getElem_extractLsb', BitVec.getLsbD_append]
  interval_cases i <;> simp [BitVec.getLsbD_eq_getElem]

@[simp] theorem fieldsOf_frameWord (v l : BitVec 2) (f : FrameFields) : fieldsOf (frameWord v l f) = f := by
  cases f
  simp only [fieldsOf, frameWord, FrameFields.mk.injEq]
  refine ⟨?_, ?_, ?_, ?_, ?_, ?_, ?_, ?_, ?_, ?_⟩ <;>
  · ext i hi
    simp only [BitVec.getElem_extractLsb', BitVec.getLsbD_append]
    interval_cases i <;> simp [BitVec.getLsbD_eq_getElem]

/-- The window bytes of a header word are that word again. -/
theorem headerWord_headerByte (h : HeaderWord) :
    headerWord (headerByte h 0) (headerByte h 1) (headerByte h 2) (headerByte h 3) = h := by
  simp only [headerWord, headerByte]
  ext i hi
  simp only [BitVec.getElem_append, BitVec.getElem_extractLsb']
  interval_cases i <;> simp [BitVec.getLsbD_eq_getElem]

@[simp] theorem headerByte_headerWord_0 (b0 b1 b2 b3 : Byte) : headerByte (headerWord b0 b1 b2 b3) 0 = b0 := by
  simp only [headerWord, headerByte]
  ext i hi
  simp only [BitVec.getElem_extractLsb', BitVec.getLsbD_append]
  interval_cases i <;> simp [BitVec.getLsbD_eq_getElem]

@[simp] theorem headerByte_headerWord_1 (b0 b1 b2 b3 : Byte) : headerByte (headerWord b0 b1 b2 b3) 1 = b1 := by
  simp only [headerWord, headerByte]
  ext i hi
  simp only [BitVec.getElem_extractLsb', BitVec.getLsbD_append]
  interval_cases i <;> simp [BitVec.getLsbD_eq_getElem]

@[simp] theorem headerByte_headerWord_2 (b0 b1 b2 b3 : Byte) : headerByte (headerWord b0 b1 b2 b3) 2 = b2 := by
  simp only [headerWord, headerByte]
  ext i hi
  simp only [BitVec.getElem_extractLsb', BitVec.getLsbD_append]
  interval_cases i <;> simp [BitVec.getLsbD_eq_getElem]

@[simp] theorem headerByte_headerWord_3 (b0 b1 b2 b3 : Byte) : headerByte (headerWord b0 b1 b2 b3) 3 = b3 := by
  simp only [headerWord, headerByte]
  ext i hi
  simp only [BitVec.getElem_extractLsb', BitVec.getLsbD_append]
  interval_cases i <;> simp [BitVec.getLsbD_eq_getElem]

/-! ### The signatures in terms of the window's bytes -/

theorem signature_headerWord (b0 b1 b2 b3 : Byte) : signature (headerWord b0 b1 b2 b3) = b0 ++ b1 ++ b2 := by
  simp only [headerWord, signature]
  refine BitVec.eq_of_getLsbD_eq fun i hi => ?_
  simp only [BitVec.getLsbD_extractLsb', BitVec.getLsbD_append]
  interval_cases i <;> simp

theorem append3_eq_iff {a b c a' b' c' : Byte} : a ++ b ++ c = a' ++ b' ++ c' ↔ a = a' ∧ b = b' ∧ c = c' := by
  constructor
  · intro h
    have h0 := congrArg (fun x : BitVec 24 => x.extractLsb' 16 8) h
    have h1 := congrArg (fun x : BitVec 24 => x.extractLsb' 8 8) h
    have h2 := congrArg (fun x : BitVec 24 => x.extractLsb' 0 8) h
    have e (x y z : Byte) : (x ++ y ++ z).extractLsb' 16 8 = x ∧ (x ++ y ++ z).extractLsb' 8 8 = y ∧
        (x ++ y ++ z).extractLsb' 0 8 = z := by
      refine ⟨?_, ?_, ?_⟩ <;>
      · ext i hi
        simp only [BitVec.getElem_extractLsb', BitVec.getLsbD_append]
        interval_cases i <;> simp [BitVec.getLsbD_eq_getElem]
    simp only [e] at h0 h1 h2
    exact ⟨h0, h1, h2⟩
  · rintro ⟨rfl, rfl, rfl⟩; rfl

theorem signature_tag_iff (b0 b1 b2 b3 : Byte) :
    signature (headerWord b0 b1 b2 b3) = tagSignature ↔ b0 = 0x54#8 ∧ b1 = 0x41#8 ∧ b2 = 0x47#8 := by
  rw [signature_headerWord, show tagSignature = 0x54#8 ++ 0x41#8 ++ 0x47#8 from rfl, append3_eq_iff]

theorem signature_id3_iff (b0 b1 b2 b3 : Byte) :
    signature (headerWord b0 b1 b2 b3) = id3Signature ↔ b0 = 0x49#8 ∧ b1 = 0x44#8 ∧ b2 = 0x33#8 := by
  rw [signature_headerWord, show id3Signature = 0x49#8 ++ 0x44#8 ++ 0x33#8 from rfl, append3_eq_iff]

theorem extract_headerWord_sync (b0 b1 b2 b3 : Byte) :
    (headerWord b0 b1 b2 b3).extractLsb' 21 11 = b0 ++ b1.extractLsb' 5 3 := by
  simp only [headerWord]
  refine BitVec.eq_of_getLsbD_eq fun i hi => ?_
  simp only [BitVec.getLsbD_extractLsb', BitVec.getLsbD_append]
  interval_cases i <;> simp

/-- The two forms in which rule R71 gives the frame sync. -/
theorem hasSync_iff (b0 b1 b2 b3 : Byte) :
    hasSync (headerWord b0 b1 b2 b3) = true ↔ b0 = 0xFF#8 ∧ b1 &&& 0xE0#8 = 0xE0#8 := by
  have hb : ∀ b : Byte, b.extractLsb' 5 3 = 0b111#3 ↔ b &&& 0xE0#8 = 0xE0#8 := by decide
  rw [hasSync, beq_iff_eq, extract_headerWord_sync, show 0b11111111111#11 = 0xFF#8 ++ 0b111#3 from rfl, ← hb]
  constructor
  · intro h
    have h0 := congrArg (fun x : BitVec 11 => x.extractLsb' 3 8) h
    have h1 := congrArg (fun x : BitVec 11 => x.extractLsb' 0 3) h
    have e (x : Byte) (y : BitVec 3) : (x ++ y).extractLsb' 3 8 = x ∧ (x ++ y).extractLsb' 0 3 = y := by
      refine ⟨?_, ?_⟩ <;>
      · ext i hi
        simp only [BitVec.getElem_extractLsb', BitVec.getLsbD_append]
        interval_cases i <;> simp [BitVec.getLsbD_eq_getElem]
    simp only [e] at h0 h1
    exact ⟨h0, h1⟩
  · rintro ⟨h0, h1⟩; rw [h0, h1]

/-- A window with frame sync has neither tag signature (rule R81). -/
theorem not_tag_of_sync {w : HeaderWord} (h : hasSync w = true) : signature w ≠ tagSignature := by
  rw [← headerWord_headerByte w] at h ⊢
  rw [hasSync_iff] at h
  rw [Ne, signature_tag_iff, h.1]
  simp

theorem not_id3_of_sync {w : HeaderWord} (h : hasSync w = true) : signature w ≠ id3Signature := by
  rw [← headerWord_headerByte w] at h ⊢
  rw [hasSync_iff] at h
  rw [Ne, signature_id3_iff, h.1]
  simp

/-! ### HD -/

theorem decodeHeader_frameWord (cfg : Config) (v l : BitVec 2) (f : FrameFields) :
    decodeHeader cfg (frameWord v l f) = decodeFields cfg v l f := by
  simp [decodeHeader]

/-- HD's success and what it computes, step by step (rules R102 to R111). -/
theorem decodeFields_ok {cfg : Config} {v l : BitVec 2} {f : FrameFields} {d : FrameDescriptor}
    (h : decodeFields cfg v l f = .ok d) :
    ∃ version layer bitRate samplingRate channelMode emphasis,
      hdVersion cfg v = .ok version ∧ hdLayer cfg l = .ok layer ∧
      hdBitRate cfg version layer f.bitrate = .ok bitRate ∧ hdSamplingRate cfg version f.rate = .ok samplingRate ∧
      hdChannelMode cfg f.channel f.modeExt = .ok channelMode ∧ hdEmphasis f.emphasis = .ok emphasis ∧
      d = { version, layer, bitRate, samplingRate, channelMode, emphasis
            padded := f.padding == 1#1, protectionBit := f.crc, crcProtected := cfg.crcProtected f.crc
            privateBit := f.priv, modeExtension := f.modeExt, copyright := f.copyright == 1#1
            original := f.original == 1#1, sampleCount := sampleCount version layer
            frameLength := frameLength (sampleCount version layer) bitRate samplingRate
              (paddingBytes (f.padding == 1#1) layer) } := by
  unfold decodeFields at h
  cases h1 : hdVersion cfg v with
  | error c => simp [h1, bind, Except.bind] at h
  | ok version =>
  cases h2 : hdLayer cfg l with
  | error c => simp [h1, h2, bind, Except.bind] at h
  | ok layer =>
  cases h3 : hdBitRate cfg version layer f.bitrate with
  | error c => simp [h1, h2, h3, bind, Except.bind] at h
  | ok bitRate =>
  cases h4 : hdSamplingRate cfg version f.rate with
  | error c => simp [h1, h2, h3, h4, bind, Except.bind] at h
  | ok samplingRate =>
  cases h5 : hdChannelMode cfg f.channel f.modeExt with
  | error c => simp [h1, h2, h3, h4, h5, bind, Except.bind] at h
  | ok channelMode =>
  cases h6 : hdEmphasis f.emphasis with
  | error c => simp [h1, h2, h3, h4, h5, h6, bind, Except.bind] at h
  | ok emphasis =>
  refine ⟨version, layer, bitRate, samplingRate, channelMode, emphasis, rfl, rfl, h3, h4, rfl, rfl, ?_⟩
  simpa [h1, h2, h3, h4, h5, h6, bind, Except.bind, pure, Except.pure] using h.symm

theorem hdVersion_ok {cfg : Config} {v : BitVec 2} {x : Version} :
    hdVersion cfg v = .ok x ↔ v ≠ 0b01#2 ∧ cfg.version v = x := by
  unfold hdVersion
  split <;> simp_all

theorem hdLayer_ok {cfg : Config} {l : BitVec 2} {x : Layer} :
    hdLayer cfg l = .ok x ↔ l ≠ 0b00#2 ∧ cfg.layer l = x := by
  unfold hdLayer
  split <;> simp_all

theorem hdBitRate_ok {cfg : Config} {v : Version} {l : Layer} {r : BitVec 4} {x : Nat} :
    hdBitRate cfg v l r = .ok x ↔
      ∃ h : r.toNat - 1 < 14, r.toNat ≠ 0 ∧ (cfg.bitrateColumn (family v) l)[r.toNat - 1] * 1000 = x := by
  unfold hdBitRate
  split
  · next h => simp; omega
  · next h =>
    have hr := r.isLt
    simp only [Except.ok.injEq]
    constructor
    · intro e; exact ⟨by omega, by omega, e⟩
    · rintro ⟨_, _, e⟩; exact e

theorem hdSamplingRate_ok {cfg : Config} {v : Version} {f : BitVec 2} {x : Nat} :
    hdSamplingRate cfg v f = .ok x ↔ ∃ h : f.toNat < 3, (cfg.sampleRateColumn v)[f.toNat] = x := by
  unfold hdSamplingRate
  split
  · next h => simp; omega
  · next h =>
    have hf := f.isLt
    simp only [Except.ok.injEq]
    constructor
    · intro e; exact ⟨by omega, e⟩
    · rintro ⟨_, e⟩; exact e

theorem hdChannelMode_ok {cfg : Config} {m e : BitVec 2} {x : ChannelMode} :
    hdChannelMode cfg m e = .ok x ↔ (e = 0b00#2 ∨ cfg.channelMode m = .jointStereo) ∧ cfg.channelMode m = x := by
  unfold hdChannelMode
  split
  · next h => simp only [reduceCtorEq, false_iff, not_and]; intro h'; simp_all
  · next h => simp only [Except.ok.injEq]; constructor
              · intro e'; exact ⟨by by_contra hc; simp_all, e'⟩
              · exact fun ⟨_, e'⟩ => e'

theorem hdEmphasis_ok {h x : BitVec 2} : hdEmphasis h = .ok x ↔ h ≠ 0b10#2 ∧ h = x := by
  unfold hdEmphasis
  split <;> simp_all

/-! ### Encoding what was decoded -/

/-- Where HD answers Ok, the window has a frame row, and the row's encoding is the window's codes put together. -/
theorem frameRow_of_ok {cfg : Config} {v l : BitVec 2} {f : FrameFields} {d : FrameDescriptor}
    (h : decodeFields cfg v l f = .ok d) :
    ∃ i, frameRow v l f = some i ∧ encode i = .window (frameWord v l f) := by
  obtain ⟨version, layer, _, _, _, _, hv, hl, -⟩ := decodeFields_ok h
  rw [hdVersion_ok] at hv
  rw [hdLayer_ok] at hl
  replace hv := hv.1
  replace hl := hl.1
  have all : ∀ x : BitVec 2, x = 0 ∨ x = 1 ∨ x = 2 ∨ x = 3 := by decide
  rcases all v with rfl | rfl | rfl | rfl <;> rcases all l with rfl | rfl | rfl | rfl <;>
    first
    | exact absurd rfl hv
    | exact absurd rfl hl
    | exact ⟨_, rfl, rfl⟩

/-- The class of a window with sync: its frame row, when HD answers Ok. -/
theorem decodeSync_ok {cfg : Config} {w : HeaderWord} {d : FrameDescriptor} (h : decodeHeader cfg w = .ok d) :
    frameRow (versionCode w) (layerCode w) (fieldsOf w) = some (decodeSync cfg w) := by
  obtain ⟨i, hi, -⟩ := frameRow_of_ok h
  simp [decodeSync, h, hi]

theorem decodeSync_rejected {cfg : Config} {w : HeaderWord} {c : Cause} (h : decodeHeader cfg w = .error c) :
    decodeSync cfg w = .falseSync (w.extractLsb' 0 21) := by
  simp [decodeSync, h]

theorem encode_decodeSync {cfg : Config} {w : HeaderWord} (hs : hasSync w = true) :
    encode (decodeSync cfg w) = .window w := by
  cases h : decodeHeader cfg w with
  | ok d =>
    obtain ⟨i, hi, he⟩ := frameRow_of_ok h
    have := decodeSync_ok h
    rw [hi, Option.some.injEq] at this
    rw [← this, he, frameWord_of_sync hs]
  | error c => rw [decodeSync_rejected h, encode, syncWord_of_sync hs]

theorem decodeWindow_tag {cfg : Config} {w : HeaderWord} (h : signature w = tagSignature) :
    decodeWindow cfg w = .tag (headerByte w 3) := by
  simp [decodeWindow, h]

theorem decodeWindow_id3 {cfg : Config} {w : HeaderWord} (h : signature w = id3Signature) :
    decodeWindow cfg w = .id3 (headerByte w 3) := by
  have : id3Signature ≠ tagSignature := by decide
  simp [decodeWindow, h, this]

theorem decodeWindow_sync {cfg : Config} {w : HeaderWord} (h : hasSync w = true) :
    decodeWindow cfg w = decodeSync cfg w := by
  simp [decodeWindow, not_tag_of_sync h, not_id3_of_sync h, h]

theorem decodeWindow_nomatch {cfg : Config} {w : HeaderWord} (h1 : signature w ≠ tagSignature)
    (h2 : signature w ≠ id3Signature) (h3 : hasSync w = false) : decodeWindow cfg w = .noMatch w := by
  simp [decodeWindow, h1, h2, h3]

/-- Every window is the encoding of its class: no bit of a window is dropped. -/
theorem encode_decodeWindow (cfg : Config) (w : HeaderWord) : encode (decodeWindow cfg w) = .window w := by
  by_cases h1 : signature w = tagSignature
  · rw [decodeWindow_tag h1, encode, ← h1, signature_append_byte]
  by_cases h2 : signature w = id3Signature
  · rw [decodeWindow_id3 h2, encode, ← h2, signature_append_byte]
  cases h3 : hasSync w with
  | true => rw [decodeWindow_sync h3, encode_decodeSync h3]
  | false => rw [decodeWindow_nomatch h1 h2 h3, encode]

theorem encode_decodeRequest : ∀ c : ReqCode, encode (decodeRequest c) = .request c := by decide

theorem encode_decode (cfg : Config) (e : Encoded) : encode (decode cfg e) = e := by
  cases e with
  | request c => exact encode_decodeRequest c
  | window w => exact encode_decodeWindow cfg w

end Sys2Proof
end

