-- ==== Sys2Proof/Laws/PerInstr.lean ====
section
/-!
SUPPORT. One fact per instruction, about the instruction as syntax: its encoding lies in the row that
spec/opcode_table.json gives it (its `mask` and `match`).
-/

namespace Sys2Proof.Laws.TableRow

open Sys2Proof

/-- A row of the opcode table: its `match` and `mask`, for a request code or for a window. -/
inductive Row where
  | request (value mask : ReqCode)
  | window (value mask : HeaderWord)
deriving DecidableEq, Repr

/-- Whether an encoded form lies in a row. -/
def Row.has : Row → Encoded → Prop
  | .request m k, .request c => c &&& k = m
  | .window m k, .window w => w &&& k = m
  | _, _ => False

/-- The row of an instruction. -/
def row : Instr → Row
  | .scan => .request 0b00#2 0b11#2
  | .scanFrame => .request 0b01#2 0b11#2
  | .scanId3v2 => .request 0b10#2 0b11#2
  | .reservedRequest => .request 0b11#2 0b11#2
  | .tag _ => .window 0x54414700#32 0xFFFFFF00#32
  | .id3 _ => .window 0x49443300#32 0xFFFFFF00#32
  | .frameMpeg1LIII _ => .window 0xFFFA0000#32 0xFFFE0000#32
  | .frameMpeg1LII _ => .window 0xFFFC0000#32 0xFFFE0000#32
  | .frameMpeg1LI _ => .window 0xFFFE0000#32 0xFFFE0000#32
  | .frameMpeg2LIII _ => .window 0xFFF20000#32 0xFFFE0000#32
  | .frameMpeg2LII _ => .window 0xFFF40000#32 0xFFFE0000#32
  | .frameMpeg2LI _ => .window 0xFFF60000#32 0xFFFE0000#32
  | .frameMpeg25LIII _ => .window 0xFFE20000#32 0xFFFE0000#32
  | .frameMpeg25LII _ => .window 0xFFE40000#32 0xFFFE0000#32
  | .frameMpeg25LI _ => .window 0xFFE60000#32 0xFFFE0000#32
  | .falseSync _ => .window 0xFFE00000#32 0xFFE00000#32
  | .noMatch _ => .window 0x00000000#32 0x00000000#32

/-- The encoding of an instruction lies in its row of the table. -/
def Statement (i : Instr) : Prop := (row i).has (encode i)

/-- The bits that a frame row fixes: sync, version and layer. -/
theorem frameWord_row (v l : BitVec 2) (f : FrameFields) :
    frameWord v l f &&& 0xFFFE0000#32 = frameWord v l ⟨0#1, 0#4, 0#2, 0#1, 0#1, 0#2, 0#2, 0#1, 0#1, 0#2⟩ := by
  simp only [frameWord]
  refine BitVec.eq_of_getLsbD_eq fun i hi => ?_
  simp only [BitVec.getLsbD_and, BitVec.getLsbD_append]
  interval_cases i <;> simp

theorem scan : Statement .scan := rfl

theorem scanFrame : Statement .scanFrame := rfl

theorem scanId3v2 : Statement .scanId3v2 := rfl

theorem reservedRequest : Statement .reservedRequest := rfl

theorem tag (w3 : Byte) : Statement (.tag w3) := by
  simp only [Statement, row, encode, Row.has, tagSignature]
  ext i hi
  simp only [BitVec.getElem_and, BitVec.getElem_append]
  interval_cases i <;> simp

theorem id3 (w3 : Byte) : Statement (.id3 w3) := by
  simp only [Statement, row, encode, Row.has, id3Signature]
  ext i hi
  simp only [BitVec.getElem_and, BitVec.getElem_append]
  interval_cases i <;> simp

theorem frameMpeg1LIII (f : FrameFields) : Statement (.frameMpeg1LIII f) := frameWord_row _ _ f

theorem frameMpeg1LII (f : FrameFields) : Statement (.frameMpeg1LII f) := frameWord_row _ _ f

theorem frameMpeg1LI (f : FrameFields) : Statement (.frameMpeg1LI f) := frameWord_row _ _ f

theorem frameMpeg2LIII (f : FrameFields) : Statement (.frameMpeg2LIII f) := frameWord_row _ _ f

theorem frameMpeg2LII (f : FrameFields) : Statement (.frameMpeg2LII f) := frameWord_row _ _ f

theorem frameMpeg2LI (f : FrameFields) : Statement (.frameMpeg2LI f) := frameWord_row _ _ f

theorem frameMpeg25LIII (f : FrameFields) : Statement (.frameMpeg25LIII f) := frameWord_row _ _ f

theorem frameMpeg25LII (f : FrameFields) : Statement (.frameMpeg25LII f) := frameWord_row _ _ f

theorem frameMpeg25LI (f : FrameFields) : Statement (.frameMpeg25LI f) := frameWord_row _ _ f

theorem falseSync (bits : BitVec 21) : Statement (.falseSync bits) := by
  simp only [Statement, row, encode, Row.has, syncWord]
  ext i hi
  simp only [BitVec.getElem_and, BitVec.getElem_append]
  interval_cases i <;> simp

theorem noMatch (w : HeaderWord) : Statement (.noMatch w) := BitVec.and_zero

end Sys2Proof.Laws.TableRow
end

