-- ==== Sys2Proof/Laws/Step.lean ====
section
/-!
SUPPORT. Says once what a step of SC can do: `StepCase s t` lists the actions of rules R151 to R163, R204 and R205 with
their enabling conditions, and `scStep_case` is the inversion of `scStep`. Every invariant and every frame follows from
it without unfolding a meaning again. The lemmas `scStep_…` are the other direction, one per action.
-/

namespace Sys2Proof.Machine

/-- Why a step holds: no request is offered, SRC has not answered, or CON has not accepted (rule R211). -/
def Waiting (s : State) : Prop :=
  (s.st = .idle ∧ s.req = []) ∨ (reads s.st = true ∧ s.src = []) ∨
    (s.acks = 0 ∧ (s.st = .eosr ∨ (s.st = .done ∧ accepts s.mode s.kind = true)))

/-- The action of a step of SC that answers a next state. -/
inductive StepCase (s : State) : State → Prop where
  /-- R16, R211 -/
  | holds (h : Waiting s) : StepCase s s
  /-- R151 -/
  | accepted (m : Mode) (c : ReqCode) (rest : List ReqCode) (hst : s.st = .idle) (hreq : s.req = c :: rest)
      (hm : modeOf c = some m) : StepCase s { startFill s with mode := m, req := rest }
  /-- R154 -/
  | tag (hst : s.st = .classify) (hsig : signature s.w.word = tagSignature) :
      StepCase s { s with kind := .id3v1, buf := s.w.bytes, need := 124, st := .body }
  /-- R155 -/
  | id3 (hst : s.st = .classify) (hsig : signature s.w.word = id3Signature) :
      StepCase s { s with buf := s.w.bytes, need := 6, st := .id3hdr }
  /-- R158 -/
  | frame (d : FrameDescriptor) (hst : s.st = .classify) (hsync : hasSync s.w.word = true)
      (hd : decodeHeader s.cfg s.w.word = .ok d) :
      StepCase s { s with
        kind := .frame, desc := some d, buf := s.w.bytes, need := d.frameLength - 4
        st := if d.frameLength - 4 = 0 then .done else .body }
  /-- R159, R160 -/
  | noMatch (hst : s.st = .classify) (htag : signature s.w.word ≠ tagSignature)
      (hid3 : signature s.w.word ≠ id3Signature)
      (hno : hasSync s.w.word = false ∨ ∃ c, decodeHeader s.cfg s.w.word = .error c) :
      StepCase s { s with st := .shift }
  /-- R203, R204 -/
  | ended (rest : List SrcAnswer) (hst : reads s.st = true) (hsrc : s.src = .ended :: rest) :
      StepCase s (gotoEos { s with src := rest })
  /-- R152 -/
  | filled (b : Byte) (rest : List SrcAnswer) (hst : s.st = .fill) (hsrc : s.src = .byte b :: rest) (hn : s.n < 4) :
      StepCase s { s with
        src := rest, pos := s.pos + 1, w := s.w.write s.n b, n := s.n + 1
        st := if s.n + 1 = 4 then .classify else .fill }
  /-- R161 -/
  | shifted (b : Byte) (rest : List SrcAnswer) (hst : s.st = .shift) (hsrc : s.src = .byte b :: rest) :
      StepCase s { s with src := rest, pos := s.pos + 1, w := s.w.shiftIn b, st := .classify }
  /-- R156, before the last header byte -/
  | header (b : Byte) (rest : List SrcAnswer) (hst : s.st = .id3hdr) (hsrc : s.src = .byte b :: rest)
      (hneed : 2 ≤ s.need) :
      StepCase s { s with src := rest, pos := s.pos + 1, buf := s.buf ++ [b], need := s.need - 1 }
  /-- R156, the last header byte -/
  | headerDone (b s6 s7 s8 : Byte) (rest : List SrcAnswer) (hst : s.st = .id3hdr) (hsrc : s.src = .byte b :: rest)
      (hneed : s.need = 1) (h6 : s.buf[6]? = some s6) (h7 : s.buf[7]? = some s7) (h8 : s.buf[8]? = some s8) :
      StepCase s { s with
        src := rest, pos := s.pos + 1, buf := s.buf ++ [b], kind := .id3v2, need := synchsafe s6 s7 s8 b
        st := if synchsafe s6 s7 s8 b = 0 then .done else .body }
  /-- R162 -/
  | bodyByte (b : Byte) (rest : List SrcAnswer) (hst : s.st = .body) (hsrc : s.src = .byte b :: rest)
      (hneed : 1 ≤ s.need) :
      StepCase s { s with
        src := rest, pos := s.pos + 1, buf := s.buf ++ [b], need := s.need - 1
        st := if s.need = 1 then .done else .body }
  /-- R163, the object is accepted -/
  | emitted (o : Obj) (k : Nat) (hst : s.st = .done) (hacc : accepts s.mode s.kind = true)
      (ho : finishedObject s = some o) (hack : s.acks = k + 1) :
      StepCase s { s with outs := s.outs ++ [o], acks := k, st := .idle }
  /-- R163, the object is discarded -/
  | discarded (hst : s.st = .done) (hacc : accepts s.mode s.kind = false) : StepCase s (startFill s)
  /-- R205 -/
  | reported (k : Nat) (hst : s.st = .eosr) (hack : s.acks = k + 1) :
      StepCase s { s with outs := s.outs ++ [.endOfStream], acks := k, st := .idle }

theorem tail_of_cons {α : Type} {a : α} {l rest : List α} (h : l = a :: rest) : l.tail = rest := by simp [h]

/-- A request's action. -/
theorem accept_case {s t : State} {c : ReqCode} {m : Mode} (hm : modeOf c = some m)
    (hf : fetch s = some (.request c)) (h : accept m s = .next t) : StepCase s t := by
  obtain ⟨hst, rest, hr⟩ := fetch_request hf
  have := StepCase.accepted m c rest hst hr hm
  simp only [accept, Host.Outcome.next.injEq, tail_of_cons hr] at h
  exact h ▸ this

theorem exec_request_case {s t : State} {c : ReqCode} (hf : fetch s = some (.request c))
    (h : exec (decodeRequest c) s = .next t) : StepCase s t := by
  have he : fetch s = some (encode (decodeRequest c)) := by rw [encode_decodeRequest]; exact hf
  have all : ∀ x : ReqCode, x = 0b00#2 ∨ x = 0b01#2 ∨ x = 0b10#2 ∨ x = 0b11#2 := by decide
  rcases all c with rfl | rfl | rfl | rfl
  · exact accept_case rfl hf ((whenEnabled_enabled he).symm.trans h)
  · exact accept_case rfl hf ((whenEnabled_enabled he).symm.trans h)
  · exact accept_case rfl hf ((whenEnabled_enabled he).symm.trans h)
  · cases h

/-- Executing a frame row with codes `v` and `l` in a state that decodes it. -/
theorem exec_frameRow {v l : BitVec 2} {f : FrameFields} {i : Instr} (hi : frameRow v l f = some i) (s : State)
    (he : fetch s = some (encode i)) : exec i s = classifyFrame v l f s := by
  have all : ∀ x : BitVec 2, x = 0 ∨ x = 1 ∨ x = 2 ∨ x = 3 := by decide
  rcases all v with rfl | rfl | rfl | rfl <;> rcases all l with rfl | rfl | rfl | rfl <;>
    first
    | (obtain rfl : _ = i := Option.some.inj hi
       exact whenEnabled_enabled he)
    | exact absurd (show none = some i from hi) (by simp)

theorem scStep_tag {s : State} (hst : s.st = .classify) (h : signature s.w.word = tagSignature) :
    scStep s = .next { s with kind := .id3v1, buf := s.w.bytes, need := 124, st := .body } := by
  have hf := fetch_classify hst
  rw [scStep_fetched hf, decode, decodeWindow_tag h, exec, execTag, whenEnabled_enabled]
  rw [hf, encode, ← h, signature_append_byte]

theorem scStep_id3 {s : State} (hst : s.st = .classify) (h : signature s.w.word = id3Signature) :
    scStep s = .next { s with buf := s.w.bytes, need := 6, st := .id3hdr } := by
  have hf := fetch_classify hst
  rw [scStep_fetched hf, decode, decodeWindow_id3 h, exec, execId3, whenEnabled_enabled]
  rw [hf, encode, ← h, signature_append_byte]

theorem scStep_frame {s : State} {d : FrameDescriptor} (hst : s.st = .classify) (hs : hasSync s.w.word = true)
    (hd : decodeHeader s.cfg s.w.word = .ok d) : scStep s = frameMatch d s := by
  have hf := fetch_classify hst
  rw [scStep_fetched hf, decode, decodeWindow_sync hs]
  rw [exec_frameRow (decodeSync_ok hd) s (by rw [encode_decodeSync hs]; exact hf)]
  exact classifyFrame_ok hd

theorem scStep_falseSync {s : State} {c : Cause} (hst : s.st = .classify) (hs : hasSync s.w.word = true)
    (hd : decodeHeader s.cfg s.w.word = .error c) : scStep s = .next { s with st := .shift } := by
  have hf := fetch_classify hst
  rw [scStep_fetched hf, decode, decodeWindow_sync hs, decodeSync_rejected hd]
  refine whenEnabled_enabled ?_
  rw [hf, encode, syncWord_of_sync hs]

theorem scStep_nomatch {s : State} (hst : s.st = .classify) (h1 : signature s.w.word ≠ tagSignature)
    (h2 : signature s.w.word ≠ id3Signature) (h3 : hasSync s.w.word = false) :
    scStep s = .next { s with st := .shift } := by
  have hf := fetch_classify hst
  rw [scStep_fetched hf, decode, decodeWindow_nomatch h1 h2 h3]
  exact whenEnabled_enabled hf

theorem classify_case {s t : State} (hst : s.st = .classify) (h : scStep s = .next t) : StepCase s t := by
  by_cases h1 : signature s.w.word = tagSignature
  · rw [scStep_tag hst h1, Host.Outcome.next.injEq] at h
    exact h ▸ .tag hst h1
  by_cases h2 : signature s.w.word = id3Signature
  · rw [scStep_id3 hst h2, Host.Outcome.next.injEq] at h
    exact h ▸ .id3 hst h2
  cases hs : hasSync s.w.word with
  | false =>
    rw [scStep_nomatch hst h1 h2 hs, Host.Outcome.next.injEq] at h
    exact h ▸ .noMatch hst h1 h2 (.inl hs)
  | true =>
    cases hd : decodeHeader s.cfg s.w.word with
    | error c =>
      rw [scStep_falseSync hst hs hd, Host.Outcome.next.injEq] at h
      exact h ▸ .noMatch hst h1 h2 (.inr ⟨c, hd⟩)
    | ok d =>
      rw [scStep_frame hst hs hd, frameMatch, Host.Outcome.next.injEq] at h
      exact h ▸ .frame d hst hs hd

/-! ### The steps that decode nothing -/

theorem scStep_state {s : State} (h : fetch s = none) {k : State → Result} (hk : internalStep s = k s) :
    scStep s = k s := by
  rw [scStep_internal h, hk]

theorem scStep_fill {s : State} (h : s.st = .fill) : scStep s = fillStep s :=
  scStep_state (fetch_other (by simp [h]) (by simp [h])) (by simp [internalStep, h])

theorem scStep_shift {s : State} (h : s.st = .shift) : scStep s = shiftStep s :=
  scStep_state (fetch_other (by simp [h]) (by simp [h])) (by simp [internalStep, h])

theorem scStep_id3hdr {s : State} (h : s.st = .id3hdr) : scStep s = id3HdrStep s :=
  scStep_state (fetch_other (by simp [h]) (by simp [h])) (by simp [internalStep, h])

theorem scStep_body {s : State} (h : s.st = .body) : scStep s = bodyStep s :=
  scStep_state (fetch_other (by simp [h]) (by simp [h])) (by simp [internalStep, h])

theorem scStep_done {s : State} (h : s.st = .done) : scStep s = doneStep s :=
  scStep_state (fetch_other (by simp [h]) (by simp [h])) (by simp [internalStep, h])

theorem scStep_eosr {s : State} (h : s.st = .eosr) : scStep s = eosrStep s :=
  scStep_state (fetch_other (by simp [h]) (by simp [h])) (by simp [internalStep, h])

theorem scStep_idle_waiting {s : State} (h : s.st = .idle) (hr : s.req = []) : scStep s = .next s := by
  have hf : fetch s = none := by simp [fetch, h, hr]
  rw [scStep_internal hf]
  simp [internalStep, h]

theorem fill_case {s t : State} (hst : s.st = .fill) (h : fillStep s = .next t) : StepCase s t := by
  rcases withSrcRead_next h with ⟨hs, rfl⟩ | ⟨rest, hs, rfl⟩ | ⟨b, rest, hs, hk⟩
  · exact .holds (.inr (.inl ⟨by simp [hst, reads], hs⟩))
  · exact .ended rest (by simp [hst, reads]) hs
  · split at hk
    · next hn => rw [Host.Outcome.next.injEq] at hk; exact hk ▸ .filled b rest hst hs hn
    · cases hk

theorem shift_case {s t : State} (hst : s.st = .shift) (h : shiftStep s = .next t) : StepCase s t := by
  rcases withSrcRead_next h with ⟨hs, rfl⟩ | ⟨rest, hs, rfl⟩ | ⟨b, rest, hs, hk⟩
  · exact .holds (.inr (.inl ⟨by simp [hst, reads], hs⟩))
  · exact .ended rest (by simp [hst, reads]) hs
  · rw [Host.Outcome.next.injEq] at hk; exact hk ▸ .shifted b rest hst hs

theorem id3hdr_case {s t : State} (hst : s.st = .id3hdr) (h : id3HdrStep s = .next t) : StepCase s t := by
  rcases withSrcRead_next h with ⟨hs, rfl⟩ | ⟨rest, hs, rfl⟩ | ⟨b, rest, hs, hk⟩
  · exact .holds (.inr (.inl ⟨by simp [hst, reads], hs⟩))
  · exact .ended rest (by simp [hst, reads]) hs
  · split at hk
    · cases hk
    · next h0 =>
      split at hk
      · next h1 =>
        obtain ⟨s6, s7, s8, h6, h7, h8, rfl⟩ := id3HeaderComplete_next hk
        exact .headerDone b s6 s7 s8 rest hst hs h1 h6 h7 h8
      · next h1 =>
        rw [Host.Outcome.next.injEq] at hk
        simp only at h0 h1
        exact hk ▸ .header b rest hst hs (by omega)

theorem body_case {s t : State} (hst : s.st = .body) (h : bodyStep s = .next t) : StepCase s t := by
  rcases withSrcRead_next h with ⟨hs, rfl⟩ | ⟨rest, hs, rfl⟩ | ⟨b, rest, hs, hk⟩
  · exact .holds (.inr (.inl ⟨by simp [hst, reads], hs⟩))
  · exact .ended rest (by simp [hst, reads]) hs
  · split at hk
    · cases hk
    · next h0 =>
      rw [Host.Outcome.next.injEq] at hk
      simp only at h0
      exact hk ▸ .bodyByte b rest hst hs (by omega)

theorem done_case {s t : State} (hst : s.st = .done) (h : doneStep s = .next t) : StepCase s t := by
  unfold doneStep at h
  split at h
  · next hacc =>
    split at h
    · next o ho =>
      rcases emit_next h with ⟨ha, rfl⟩ | ⟨k, ha, rfl⟩
      · exact .holds (.inr (.inr ⟨ha, .inr ⟨hst, hacc⟩⟩))
      · exact .emitted o k hst hacc ho ha
    · cases h
  · next hacc =>
    rw [Host.Outcome.next.injEq] at h
    exact h ▸ .discarded hst (by simpa using hacc)

theorem eosr_case {s t : State} (hst : s.st = .eosr) (h : eosrStep s = .next t) : StepCase s t := by
  rcases emit_next h with ⟨ha, rfl⟩ | ⟨k, ha, rfl⟩
  · exact .holds (.inr (.inr ⟨ha, .inl hst⟩))
  · exact .reported k hst ha

/-- Inversion of a step of SC: it is one of the actions of `StepCase`. -/
theorem scStep_case {s t : State} (h : scStep s = .next t) : StepCase s t := by
  cases hst : s.st with
  | idle =>
    cases hr : s.req with
    | nil =>
      rw [scStep_idle_waiting hst hr, Host.Outcome.next.injEq] at h
      exact h ▸ .holds (.inl ⟨hst, hr⟩)
    | cons c rest =>
      have hf : fetch s = some (.request c) := by simp [fetch, hst, hr]
      rw [scStep_fetched hf] at h
      exact exec_request_case hf h
  | classify => exact classify_case hst h
  | fill => exact fill_case hst (scStep_fill hst ▸ h)
  | shift => exact shift_case hst (scStep_shift hst ▸ h)
  | id3hdr => exact id3hdr_case hst (scStep_id3hdr hst ▸ h)
  | body => exact body_case hst (scStep_body hst ▸ h)
  | done => exact done_case hst (scStep_done hst ▸ h)
  | eosr => exact eosr_case hst (scStep_eosr hst ▸ h)

/-- Inversion of a step of MFHD: a reset, or an action of SC on the state with the reset input consumed. -/
theorem step_case {s t : State} (h : step s = .next t) :
    s.cfg.admissible = true ∧ ((resetNow s = true ∧ t = resetRegs (sampleReset s)) ∨
      (resetNow s = false ∧ StepCase (sampleReset s) t)) := by
  obtain ⟨hc, hr | ⟨hr, hs⟩⟩ := step_next h
  · exact ⟨hc, .inl hr⟩
  · exact ⟨hc, .inr ⟨hr, scStep_case hs⟩⟩

/-! ### One lemma per action: when it is taken -/

theorem scStep_accept {s : State} {c : ReqCode} {m : Mode} {rest : List ReqCode} (hst : s.st = .idle)
    (hreq : s.req = c :: rest) (hm : modeOf c = some m) :
    scStep s = .next { startFill s with mode := m, req := rest } := by
  have hf : fetch s = some (.request c) := by simp [fetch, hst, hreq]
  have he : fetch s = some (encode (decodeRequest c)) := by rw [encode_decodeRequest]; exact hf
  rw [scStep_fetched hf, ← tail_of_cons hreq]
  have all : ∀ x : ReqCode, x = 0b00#2 ∨ x = 0b01#2 ∨ x = 0b10#2 ∨ x = 0b11#2 := by decide
  rcases all c with rfl | rfl | rfl | rfl
  · obtain rfl : _ = m := Option.some.inj hm
    exact whenEnabled_enabled he
  · obtain rfl : _ = m := Option.some.inj hm
    exact whenEnabled_enabled he
  · obtain rfl : _ = m := Option.some.inj hm
    exact whenEnabled_enabled he
  · cases hm

theorem scStep_ended {s : State} {rest : List SrcAnswer} (hst : reads s.st = true) (hsrc : s.src = .ended :: rest) :
    scStep s = .next (gotoEos { s with src := rest }) := by
  cases h : s.st <;> simp only [h, reads, Bool.false_eq_true] at hst
  · rw [scStep_fill h]; exact withSrcRead_ended _ hsrc
  · rw [scStep_shift h]; exact withSrcRead_ended _ hsrc
  · rw [scStep_id3hdr h]; exact withSrcRead_ended _ hsrc
  · rw [scStep_body h]; exact withSrcRead_ended _ hsrc

theorem scStep_read_waiting {s : State} (hst : reads s.st = true) (hsrc : s.src = []) : scStep s = .next s := by
  cases h : s.st <;> simp only [h, reads, Bool.false_eq_true] at hst
  · rw [scStep_fill h]; exact withSrcRead_waiting _ hsrc
  · rw [scStep_shift h]; exact withSrcRead_waiting _ hsrc
  · rw [scStep_id3hdr h]; exact withSrcRead_waiting _ hsrc
  · rw [scStep_body h]; exact withSrcRead_waiting _ hsrc

theorem scStep_fill_byte {s : State} {b : Byte} {rest : List SrcAnswer} (hst : s.st = .fill)
    (hsrc : s.src = .byte b :: rest) (hn : s.n < 4) :
    scStep s = .next { s with
      src := rest, pos := s.pos + 1, w := s.w.write s.n b, n := s.n + 1
      st := if s.n + 1 = 4 then .classify else .fill } := by
  rw [scStep_fill hst, fillStep, withSrcRead_byte _ hsrc, if_pos hn]

theorem scStep_shift_byte {s : State} {b : Byte} {rest : List SrcAnswer} (hst : s.st = .shift)
    (hsrc : s.src = .byte b :: rest) :
    scStep s = .next { s with src := rest, pos := s.pos + 1, w := s.w.shiftIn b, st := .classify } := by
  rw [scStep_shift hst, shiftStep, withSrcRead_byte _ hsrc]

theorem scStep_header_byte {s : State} {b : Byte} {rest : List SrcAnswer} (hst : s.st = .id3hdr)
    (hsrc : s.src = .byte b :: rest) (hneed : 2 ≤ s.need) :
    scStep s = .next { s with src := rest, pos := s.pos + 1, buf := s.buf ++ [b], need := s.need - 1 } := by
  rw [scStep_id3hdr hst, id3HdrStep, withSrcRead_byte _ hsrc, if_neg (by simp; omega), if_neg (by simp; omega)]

theorem scStep_header_last {s : State} {b s6 s7 s8 : Byte} {rest : List SrcAnswer} (hst : s.st = .id3hdr)
    (hsrc : s.src = .byte b :: rest) (hneed : s.need = 1) (h6 : s.buf[6]? = some s6) (h7 : s.buf[7]? = some s7)
    (h8 : s.buf[8]? = some s8) :
    scStep s = .next { s with
      src := rest, pos := s.pos + 1, buf := s.buf ++ [b], kind := .id3v2, need := synchsafe s6 s7 s8 b
      st := if synchsafe s6 s7 s8 b = 0 then .done else .body } := by
  rw [scStep_id3hdr hst, id3HdrStep, withSrcRead_byte _ hsrc, if_neg (by simp [hneed]), if_pos hneed]
  exact id3HeaderComplete_eq h6 h7 h8

theorem scStep_body_byte {s : State} {b : Byte} {rest : List SrcAnswer} (hst : s.st = .body)
    (hsrc : s.src = .byte b :: rest) (hneed : 1 ≤ s.need) :
    scStep s = .next { s with
      src := rest, pos := s.pos + 1, buf := s.buf ++ [b], need := s.need - 1
      st := if s.need = 1 then .done else .body } := by
  rw [scStep_body hst, bodyStep, withSrcRead_byte _ hsrc, if_neg (by simp; omega)]

theorem scStep_emit {s : State} {o : Obj} {k : Nat} (hst : s.st = .done) (hacc : accepts s.mode s.kind = true)
    (ho : finishedObject s = some o) (hack : s.acks = k + 1) :
    scStep s = .next { s with outs := s.outs ++ [o], acks := k, st := .idle } := by
  rw [scStep_done hst, doneStep, if_pos hacc, ho]
  exact emit_accepted o hack

theorem scStep_emit_waiting {s : State} {o : Obj} (hst : s.st = .done) (hacc : accepts s.mode s.kind = true)
    (ho : finishedObject s = some o) (hack : s.acks = 0) : scStep s = .next s := by
  rw [scStep_done hst, doneStep, if_pos hacc, ho]
  exact emit_waiting o hack

theorem scStep_discard {s : State} (hst : s.st = .done) (hacc : accepts s.mode s.kind = false) :
    scStep s = .next (startFill s) := by
  rw [scStep_done hst, doneStep, if_neg (by simp [hacc])]

theorem scStep_report {s : State} {k : Nat} (hst : s.st = .eosr) (hack : s.acks = k + 1) :
    scStep s = .next { s with outs := s.outs ++ [.endOfStream], acks := k, st := .idle } := by
  rw [scStep_eosr hst]
  exact emit_accepted _ hack

theorem scStep_report_waiting {s : State} (hst : s.st = .eosr) (hack : s.acks = 0) : scStep s = .next s := by
  rw [scStep_eosr hst]
  exact emit_waiting _ hack

end Sys2Proof.Machine
end

