-- ==== Sys2Proof/Laws/Ports.lean ====
section
/-!
SUPPORT. The port level: what an edge can do, said once (`edge_cases`), what SC keeps when the ports are offered to it or
taken from it, how the transactions of edges add up, and that the widths of the widened ports hold their values.
-/

namespace Sys2Proof.Machine

/-! ### Offering and taking away the inputs of an edge -/

@[simp] theorem offer_regs (i : PortIn) (s : State) : (offer i s).regs = s.regs := rfl
@[simp] theorem quiet_regs (s : State) : (quiet s).regs = s.regs := rfl
@[simp] theorem withEnv_regs (s : State) (src : List SrcAnswer) (req : List ReqCode) (acks : Nat) (rst : List Bool) :
    (s.withEnv src req acks rst).regs = s.regs := rfl

/-- The environment is all that two states with the same registers can differ in. -/
theorem withEnv_congr {s t : State} (h : s.regs = t.regs) (src : List SrcAnswer) (req : List ReqCode) (acks : Nat)
    (rst : List Bool) : s.withEnv src req acks rst = t.withEnv src req acks rst := by
  simp only [State.regs, Regs.mk.injEq] at h
  simp [State.withEnv, h]

/-! ### One edge -/

/-- An edge without reset at which a payload byte is pending. -/
theorem edge_payload {i : PortIn} {p : PortState} {b : Byte} {rest : List Byte} (hr : i.rst = false)
    (hp : p.pend = b :: rest) :
    edge i p = if i.payReady then { p with pend := rest, delivered := p.delivered ++ [b], edges := p.edges + 1 }
      else { p with edges := p.edges + 1 } := by
  simp only [edge, hp, hr]

/-- Any other edge whose step answers a next state. -/
theorem edge_step {i : PortIn} {p : PortState} {t : State} (h : i.rst = true ∨ p.pend = [])
    (ht : step (offer i p.sc) = .next t) :
    edge i p = { sc := quiet t, pend := if i.rst then [] else streamed p.sc t
                 delivered := if i.rst || transferred p.sc t then [] else p.delivered, edges := p.edges + 1 } := by
  unfold edge
  split
  · next hp hr => rcases h with h | h <;> simp_all
  · simp only [ht]

/-- Everything an edge can do: deliver a payload byte or wait for `pay_ready`; take SC's step; or, where SC has none, count
the edge alone (assumption 17). -/
theorem edge_cases (i : PortIn) (p : PortState) :
    (∃ b rest, i.rst = false ∧ p.pend = b :: rest ∧
      edge i p = if i.payReady then { p with pend := rest, delivered := p.delivered ++ [b], edges := p.edges + 1 }
        else { p with edges := p.edges + 1 }) ∨
    ((i.rst = true ∨ p.pend = []) ∧ ∃ t, step (offer i p.sc) = .next t ∧
      edge i p = { sc := quiet t, pend := if i.rst then [] else streamed p.sc t
                   delivered := if i.rst || transferred p.sc t then [] else p.delivered, edges := p.edges + 1 }) ∨
    ((i.rst = true ∨ p.pend = []) ∧ (∀ t, step (offer i p.sc) ≠ .next t) ∧ edge i p = { p with edges := p.edges + 1 }) := by
  cases hr : i.rst with
  | false =>
    cases hp : p.pend with
    | cons b rest => exact .inl ⟨b, rest, rfl, rfl, hp ▸ edge_payload hr hp⟩
    | nil =>
      right
      cases ht : step (offer i p.sc) with
      | next t => exact .inl ⟨.inr rfl, t, rfl, hr ▸ edge_step (.inr hp) ht⟩
      | fault f => exact .inr ⟨.inr rfl, by simp, by simp [edge, hp, ht]⟩
      | refused r => exact .inr ⟨.inr rfl, by simp, by simp [edge, hp, ht]⟩
  | true =>
    right
    cases ht : step (offer i p.sc) with
    | next t => exact .inl ⟨.inl rfl, t, rfl, hr ▸ edge_step (.inl hr) ht⟩
    | fault f => exact .inr ⟨.inl rfl, by simp, by unfold edge; rw [ht]; cases p.pend <;> simp [hr]⟩
    | refused r => exact .inr ⟨.inl rfl, by simp, by unfold edge; rw [ht]; cases p.pend <;> simp [hr]⟩

/-! ### The transactions of edges -/

@[simp] theorem transfers_nil (p : PortState) : transfers [] p = ⟨[], [], 0, []⟩ := rfl
@[simp] theorem transfers_cons (i : PortIn) (is : List PortIn) (p : PortState) :
    transfers (i :: is) p = (transfersAt i p).append (transfers is (edge i p)) := rfl
@[simp] theorem edgesRun_nil (p : PortState) : edgesRun [] p = p := rfl
@[simp] theorem edgesRun_cons (i : PortIn) (is : List PortIn) (p : PortState) :
    edgesRun (i :: is) p = edgesRun is (edge i p) := rfl

/-- Where SC stands still nothing transfers. -/
theorem transfersAt_of_not_moves {i : PortIn} {p : PortState} (h : moves i p = false) :
    transfersAt i p = ⟨[], [], 0, []⟩ := by
  simp only [moves, Bool.or_eq_false_iff] at h
  obtain ⟨⟨⟨⟨h1, h2⟩, h3⟩, h4⟩, h5⟩ := h
  simp [transfersAt, moves, h1, h2, h3, h4, h5]

/-! ### The widths of the widened ports (rule R60) -/

/-- A width made for a list holds each of its values. -/
theorem lt_two_pow_widthFor {v least : Nat} {l : List Nat} (h : v ∈ l) : v < 2 ^ widthFor least l := by
  induction l with
  | nil => cases h
  | cons a l ih =>
    rw [widthFor, List.foldr_cons]
    rcases List.mem_cons.1 h with rfl | h
    · exact Nat.lt_of_lt_of_le Nat.lt_log2_self (Nat.pow_le_pow_right (by decide) (Nat.le_max_left _ _))
    · exact Nat.lt_of_lt_of_le (ih h) (Nat.pow_le_pow_right (by decide) (Nat.le_max_right _ _))

theorem mem_allVersions (v : Version) : v ∈ allVersions := by cases v <;> decide
theorem mem_allLayers (l : Layer) : l ∈ allLayers := by cases l <;> decide

/-- An open value of a descriptor port fits its port. -/
theorem openDescPorts_fit (cfg : Config) (edges : Nat) :
    (openDescPorts cfg edges).dBitrate < 2 ^ cfg.bitrateWidth ∧
      (openDescPorts cfg edges).dSamplingRate < 2 ^ cfg.samplingRateWidth ∧
      (openDescPorts cfg edges).dFrameLength < 2 ^ cfg.frameLengthWidth :=
  ⟨Nat.mod_lt _ (Nat.two_pow_pos _), Nat.mod_lt _ (Nat.two_pow_pos _), Nat.mod_lt _ (Nat.two_pow_pos _)⟩

end Sys2Proof.Machine
end

