-- ==== Sys2Proof/Tests/Slice0.lean ====
section
/-!
SUPPORT. The model's own tests. Expected results come from spec/95_test_vectors.md (the vector's name stands before
each test) or are written out from the encodings of spec/30_encoding.md. The last part gives, for every statement of
Certificates/Slice0/Obligations.lean that has hypotheses, a state and operands that meet them.
-/

namespace Sys2Proof.Tests

open Sys2Proof Sys2Proof.Machine

/-! ### Helpers -/

/-- The fields of a frame row that its word leaves at 0, but for the bitrate index. -/
def fields (bitrate : BitVec 4) : FrameFields := ⟨0#1, bitrate, 0#2, 0#1, 0#1, 0#2, 0#2, 0#1, 0#1, 0#2⟩

/-- SC in CLASSIFY with a window. -/
def classifying (h : HeaderWord) : State := { State.reset with st := .classify, n := 4, w := Window.ofWord h }

/-- SC in IDLE with a request offered. -/
def offered (c : ReqCode) : State := { State.reset with req := [c] }

/-- The next state of an outcome. -/
def nextOf : Result → Option State
  | .next s => some s
  | _ => none

theorem of_nextOf {r : Result} {t : State} (h : nextOf r = some t) : r = .next t := by
  cases r <;> simp_all [nextOf]

/-- The frame length of a header, under the default configuration. -/
def lengthOf (h : HeaderWord) : Option Nat := (decodeHeader Config.default h).toOption.map (·.frameLength)

/-- The cause code of a header, under the default configuration. -/
def causeOf (h : HeaderWord) : BitVec 3 := decCause Config.default h

/-! ### Well-formed terms: each check refuses an ill-formed one -/

theorem test_wf_frame : (Instr.frameMpeg1LIII (fields 9#4)).wf Config.default = true := by decide
theorem test_wf_bitrate_0 : (Instr.frameMpeg1LIII (fields 0#4)).wf Config.default = false := by decide
theorem test_wf_bitrate_15 : (Instr.frameMpeg1LII (fields 15#4)).wf Config.default = false := by decide
theorem test_wf_rate_3 : (Instr.frameMpeg1LI { fields 9#4 with rate := 3#2 }).wf Config.default = false := by decide
theorem test_wf_mode_ext : (Instr.frameMpeg2LIII { fields 9#4 with modeExt := 1#2 }).wf Config.default = false := by decide
theorem test_wf_emphasis : (Instr.frameMpeg25LI { fields 9#4 with emphasis := 2#2 }).wf Config.default = false := by decide
theorem test_wf_joint : (Instr.frameMpeg2LI { fields 9#4 with channel := 1#2, modeExt := 3#2 }).wf Config.default = true := by decide
theorem test_wf_false_sync_valid : (Instr.falseSync 0b11011_10010000_00000000#21).wf Config.default = false := by decide
theorem test_wf_nomatch_tag : (Instr.noMatch 0x54414700#32).wf Config.default = false := by decide
theorem test_wf_nomatch_id3 : (Instr.noMatch 0x49443300#32).wf Config.default = false := by decide
theorem test_wf_nomatch_sync : (Instr.noMatch 0xFFE00000#32).wf Config.default = false := by decide

/-! ### Decoding: one word of every row, written out from rules R70, R75, R78, R79 and R80 -/

theorem test_decode_requests :
    decodeTableWord 8 0b00 = some .scan ∧ decodeTableWord 8 0b01 = some .scanFrame ∧
    decodeTableWord 8 0b10 = some .scanId3v2 ∧ decodeTableWord 8 0b11 = some .reservedRequest := by decide
theorem test_decode_tag : decodeTableWord 32 0b01010100_01000001_01000111_00100000 = some (.tag 0x20#8) := by decide
theorem test_decode_id3 : decodeTableWord 32 0b01001001_01000100_00110011_00000100 = some (.id3 0x04#8) := by decide
theorem test_decode_frameMpeg1LIII : decodeTableWord 32 0b11111111_11111011_01010010_11000000
    = some (.frameMpeg1LIII ⟨1#1, 5#4, 0#2, 1#1, 0#1, 3#2, 0#2, 0#1, 0#1, 0#2⟩) := by decide
theorem test_decode_frameMpeg1LII : decodeTableWord 32 0b11111111_11111101_11101010_00000000
    = some (.frameMpeg1LII ⟨1#1, 14#4, 2#2, 1#1, 0#1, 0#2, 0#2, 0#1, 0#1, 0#2⟩) := by decide
theorem test_decode_frameMpeg1LI : decodeTableWord 32 0b11111111_11111111_00010010_00000000
    = some (.frameMpeg1LI ⟨1#1, 1#4, 0#2, 1#1, 0#1, 0#2, 0#2, 0#1, 0#1, 0#2⟩) := by decide
theorem test_decode_frameMpeg2LIII : decodeTableWord 32 0b11111111_11110011_00010100_11000000
    = some (.frameMpeg2LIII ⟨1#1, 1#4, 1#2, 0#1, 0#1, 3#2, 0#2, 0#1, 0#1, 0#2⟩) := by decide
theorem test_decode_frameMpeg2LII : decodeTableWord 32 0b11111111_11110101_00010000_00000000
    = some (.frameMpeg2LII ⟨1#1, 1#4, 0#2, 0#1, 0#1, 0#2, 0#2, 0#1, 0#1, 0#2⟩) := by decide
theorem test_decode_frameMpeg2LI : decodeTableWord 32 0b11111111_11110111_11101000_00000000
    = some (.frameMpeg2LI ⟨1#1, 14#4, 2#2, 0#1, 0#1, 0#2, 0#2, 0#1, 0#1, 0#2⟩) := by decide
theorem test_decode_frameMpeg25LIII : decodeTableWord 32 0b11111111_11100011_00011000_00000000
    = some (.frameMpeg25LIII ⟨1#1, 1#4, 2#2, 0#1, 0#1, 0#2, 0#2, 0#1, 0#1, 0#2⟩) := by decide
theorem test_decode_frameMpeg25LII : decodeTableWord 32 0b11111111_11100101_11101010_00000000
    = some (.frameMpeg25LII ⟨1#1, 14#4, 2#2, 1#1, 0#1, 0#2, 0#2, 0#1, 0#1, 0#2⟩) := by decide
theorem test_decode_frameMpeg25LI : decodeTableWord 32 0b11111111_11100110_10010001_01111101
    = some (.frameMpeg25LI ⟨0#1, 9#4, 0#2, 0#1, 1#1, 1#2, 3#2, 1#1, 1#1, 1#2⟩) := by decide
theorem test_decode_falseSync : decodeTableWord 32 0b11111111_11111011_00000000_00000000
    = some (.falseSync 0b11011_00000000_00000000#21) := by decide
theorem test_decode_nomatch : decodeTableWord 32 0 = some (.noMatch 0x00000000#32) := by decide
/-- Frame sync needs 11 ones: `FF DF` has a 0 at `h[21]`. -/
theorem test_decode_no_sync : decodeTableWord 32 0xFFDB9000 = some (.noMatch 0xFFDB9000#32) := by decide
theorem test_decode_rejects :
    decodeTableWord 8 4 = none ∧ decodeTableWord 32 (2 ^ 32) = none ∧
    decodeWindowBytes Config.default [0xFF#8] = .error .windowIsNotFourBytes ∧
    decodeRequestBytes [4#8] = .error .requestCodeAboveThree ∧ decodeRequestBytes [] = .error .requestIsNotOneByte :=
  ⟨by decide, by decide, rfl, rfl, rfl⟩

/-! ### The header decoder (section 2.1 of the test vectors) -/

/-- V-HD-7 -/
def m2Desc : FrameDescriptor where
  version := .mpeg2
  layer := .III
  protectionBit := 1#1
  crcProtected := false
  bitRate := 8000
  samplingRate := 24000
  padded := false
  privateBit := 0#1
  channelMode := .mono
  modeExtension := 0#2
  copyright := false
  original := false
  emphasis := 0#2
  sampleCount := 576
  frameLength := 24

/-- V-HD-7 -/
theorem test_hd_least : hd Config.default 0xFF#8 0xF3#8 0x14#8 0xC0#8 = .ok m2Desc := rfl
/-- V-HD-22 and V-HD-23: the flag bits pass through. -/
theorem test_hd_flags :
    (decodeHeader Config.default 0xFFFB914D#32).toOption.map
        (fun d => (d.privateBit, d.channelMode, d.modeExtension, d.copyright, d.original, d.emphasis))
      = some (1#1, .jointStereo, 0#2, true, true, 1#2) ∧
    (decodeHeader Config.default 0xFFFA9000#32).toOption.map (·.crcProtected) = some true := by decide
/-- V-HD-1, V-HD-3, V-HD-5, V-HD-6, V-HD-8, V-HD-9, V-HD-26, V-HD-28, V-HD-29 -/
theorem test_hd_lengths :
    lengthOf 0xFFFB52C0#32 = some 209 ∧ lengthOf 0xFFFB9200#32 = some 418 ∧ lengthOf 0xFFFF1200#32 = some 38 ∧
    lengthOf 0xFFFDEA00#32 = some 1729 ∧ lengthOf 0xFFE5EA00#32 = some 2881 ∧ lengthOf 0xFFE31800#32 = some 72 ∧
    lengthOf 0xFFFBE400#32 = some 960 ∧ lengthOf 0xFFF51000#32 = some 52 ∧ lengthOf 0xFFF7E800#32 = some 768 := by
  decide
/-- V-HD-10 to V-HD-17, and V-HD-24: several causes, the lowest is reported. -/
theorem test_hd_causes :
    causeOf 0xFFEB9000#32 = 1#3 ∧ causeOf 0xFFF99000#32 = 2#3 ∧ causeOf 0xFFFB0000#32 = 3#3 ∧
    causeOf 0xFFFBF000#32 = 3#3 ∧ causeOf 0xFFFB9C00#32 = 4#3 ∧ causeOf 0xFFFB9010#32 = 5#3 ∧
    causeOf 0xFFFB90D0#32 = 5#3 ∧ causeOf 0xFFFB9002#32 = 6#3 ∧ causeOf 0xFFEBFC12#32 = 1#3 := by decide
/-- V-SS-5, V-SS-8, V-SS-9 -/
theorem test_synchsafe :
    synchsafe 0x00#8 0x00#8 0x02#8 0x01#8 = 257 ∧ synchsafe 0x7F#8 0x7F#8 0x7F#8 0x7F#8 = 268435455 ∧
    synchsafe 0x80#8 0x80#8 0x80#8 0x80#8 = 0 := by decide

/-! ### One step (sections 2.3 to 2.5 of the test vectors) -/

/-- V-SC-1 -/
theorem test_step_request : (nextOf (step (offered 0b01#2))).map (fun t => (t.st, t.mode, t.n, t.req))
    = some (.fill, .frameOnly, 0, []) := by decide +kernel
/-- V-SC-2 -/
theorem test_step_reserved : step (offered 0b11#2) = .refused .reservedRequestMode := rfl
/-- V-SC-3 -/
theorem test_step_fill :
    (nextOf (step { State.reset with
      st := .fill, n := 3, w := ⟨0x54#8, 0x41#8, 0x47#8, 0xEE#8⟩, src := [.byte 0x20#8], pos := 9 })).map
      (fun t => (t.w, t.n, t.st, t.pos)) = some (⟨0x54#8, 0x41#8, 0x47#8, 0x20#8⟩, 4, .classify, 10) := by
  decide +kernel
/-- V-SC-4 -/
theorem test_step_tag : (nextOf (step (classifying 0x54414720#32))).map (fun t => (t.kind, t.buf, t.need, t.st))
    = some (.id3v1, [0x54#8, 0x41#8, 0x47#8, 0x20#8], 124, .body) := by decide +kernel
/-- V-SC-5 -/
theorem test_step_id3 : (nextOf (step (classifying 0x49443304#32))).map (fun t => (t.kind, t.buf, t.need, t.st))
    = some (.none, [0x49#8, 0x44#8, 0x33#8, 0x04#8], 6, .id3hdr) := by decide +kernel

/-- An Extended Tag whose last header byte is to come. -/
def lastHeaderByte (b : Byte) : State := { State.reset with
  st := .id3hdr, n := 4, w := ⟨0x49#8, 0x44#8, 0x33#8, 0x04#8⟩, need := 1, src := [.byte b]
  buf := [0x49#8, 0x44#8, 0x33#8, 0x04#8, 0#8, 0#8, 0#8, 0#8, 0#8] }

/-- V-SC-6 and V-SC-7 -/
theorem test_step_header_end :
    (nextOf (step (lastHeaderByte 5#8))).map (fun t => (t.kind, t.need, t.st, t.buf.length)) = some (.id3v2, 5, .body, 10) ∧
    (nextOf (step (lastHeaderByte 0#8))).map (fun t => (t.kind, t.need, t.st)) = some (.id3v2, 0, .done) := by
  decide +kernel
/-- V-SC-8 -/
theorem test_step_frame :
    (nextOf (step (classifying 0xFFF314C0#32))).map (fun t => (t.kind, t.desc, t.need, t.st))
      = some (.frame, some m2Desc, 20, .body) := by decide +kernel
/-- V-SC-9 and V-SC-16 -/
theorem test_step_false_sync : (nextOf (step (classifying 0xFFFB0000#32))).map (·.st) = some .shift ∧
    (nextOf (step (classifying 0xFFFFF314#32))).map (·.st) = some .shift ∧ causeOf 0xFFFFF314#32 = 3#3 := by decide +kernel
/-- V-SC-10 -/
theorem test_step_nomatch : (nextOf (step (classifying 0x00000000#32))).map (·.st) = some .shift := by decide +kernel
/-- V-SC-11 -/
theorem test_step_shift :
    (nextOf (step { classifying 0x00FFFB90#32 with st := .shift, src := [.byte 0x00#8] })).map (fun t => (t.w, t.st))
      = some (⟨0xFF#8, 0xFB#8, 0x90#8, 0x00#8⟩, .classify) := by decide +kernel

/-- A Legacy Tag being read or finished; its bytes are not what these tests are about. -/
def tagIn (st : Ctl) (mode : Mode) (need : Nat) : State := { State.reset with
  st, mode, need, n := 4, kind := .id3v1, w := ⟨0x54#8, 0x41#8, 0x47#8, 0x20#8⟩, acks := 1, src := [.byte 7#8]
  buf := [0x54#8, 0x41#8, 0x47#8, 0x20#8] }

/-- V-SC-12 -/
theorem test_step_body : (nextOf (step (tagIn .body .any 1))).map (fun t => (t.buf.getLast?, t.need, t.st))
    = some (some 7#8, 0, .done) := by decide +kernel
/-- V-SC-13 and V-SC-14 -/
theorem test_step_done :
    (nextOf (step (tagIn .done .any 0))).map (fun t => (t.outs, t.st))
      = some ([.legacyTag [0x54#8, 0x41#8, 0x47#8, 0x20#8]], .idle) ∧
    (nextOf (step (tagIn .done .frameOnly 0))).map (fun t => (t.buf, t.n, t.st, t.outs)) = some ([], 0, .fill, []) := by
  decide +kernel
/-- V-EOS-5, the step that gets `End`, and the report after it -/
theorem test_step_end :
    (nextOf (step { tagIn .body .any 28 with src := [.ended] })).map (fun t => (t.st, t.buf, t.kind, t.need))
      = some (.eosr, [], .none, 0) ∧
    (nextOf (step { State.reset with st := .eosr, acks := 1 })).map (fun t => (t.st, t.outs))
      = some (.idle, [.endOfStream]) := by decide +kernel
/-- V-RST-1 -/
theorem test_step_reset :
    nextOf (step { tagIn .body .frameOnly 28 with rst := [true], pos := 10 })
      = some { State.reset with acks := 1, src := [.byte 7#8] } := by decide +kernel
/-- The host's own placement of an instruction runs exactly it. -/
theorem test_withFetchWord :
    (nextOf (step (State.reset.withFetchWord 8 0b10))).map (·.mode) = some .id3v2Only ∧
    (nextOf (step (State.reset.withFetchWord 32 0x54414700))).map (·.kind) = some .id3v1 := by decide +kernel

/-! ### Witnesses: a state and operands that meet the hypotheses of each statement -/

theorem default_admissible : Config.default.admissible = true := by decide +kernel

/-- A configuration whose version map is not injective. -/
def badConfig : Config := { Config.default with versionMap := ⟨.mpeg1, .mpeg1, .mpeg1⟩ }

def resetEdge : PortIn := ⟨true, false, 0#2, false, 0#8, false, false, false⟩
def quietEdge : PortIn := { resetEdge with rst := false }

theorem witness_ResetStepReloadsRegistersAndStopsTransfers :
    (State.reset.cfg.admissible = true ∧ ({ State.reset with rst := [true] } : State).rst.head? = some true) ∧
      resetEdge.rst = true ∧ PortState.reset.sc.cfg.admissible = true :=
  ⟨⟨default_admissible, rfl⟩, rfl, default_admissible⟩
theorem witness_ConfigurationAdmissibility :
    (0b00#2 ≠ 0b01#2 ∧ 0b11#2 ≠ 0b01#2) ∧ (∃ d, decodeHeader Config.default 0xFFF314C0#32 = .ok d) ∧
      ({ State.reset with cfg := badConfig } : State).cfg.admissible = false :=
  ⟨by decide, ⟨m2Desc, rfl⟩, by decide +kernel⟩
theorem witness_DecodeEncodeRoundTrip :
    (∀ c ∈ [fun f => Instr.frameMpeg1LIII f, .frameMpeg1LII, .frameMpeg1LI, .frameMpeg2LIII, .frameMpeg2LII, .frameMpeg2LI,
      .frameMpeg25LIII, .frameMpeg25LII, .frameMpeg25LI], (c (fields 1#4)).wf Config.default = true) ∧
    (Instr.falseSync 0x1FFFFF#21).wf Config.default = true ∧ (Instr.noMatch 0xFFDFFFFF#32).wf Config.default = true := by
  decide
/-- R80's classes at neighbouring windows: each class once, and windows one bit away from a signature. -/
theorem witness_WindowClassByItsBytes :
    decodeWindow Config.default 0x544147FF#32 = .tag 0xFF#8 ∧ decodeWindow Config.default 0x544146FF#32 = .noMatch 0x544146FF#32 ∧
    decodeWindow Config.default 0x494433FF#32 = .id3 0xFF#8 ∧ (∃ c, hd Config.default 0xFF#8 0xE0#8 0#8 0#8 = .error c) ∧
    (∃ d, hd Config.default 0xFF#8 0xF3#8 0x14#8 0xC0#8 = .ok d) :=
  ⟨by decide, by decide, by decide, ⟨.badLayer, rfl⟩, ⟨m2Desc, rfl⟩⟩
theorem witness_HeaderFieldPositions : hasSync 0xFFE00000#32 = true := by decide
theorem witness_HeaderWordIsBigEndian :
    (Window.mk 1#8 2#8 3#8 4#8).bytes[0]? = some 1#8 ∧ (Window.mk 1#8 2#8 3#8 4#8).bytes[3]? = some 4#8 ∧ 7 < 8 := by decide
theorem witness_HdValidExactlyOnSixTests : decodeHeader Config.default 0xFFF314C0#32 = .ok m2Desc := rfl
/-- One header per clause of R111: those of V-HD-10 to V-HD-17, and V-HD-7. -/
theorem witness_HdWholeDecode :
    versionCode 0xFFEB9000#32 = 0b01#2 ∧ (versionCode 0xFFF99000#32 ≠ 0b01#2 ∧ layerCode 0xFFF99000#32 = 0b00#2) ∧
    (layerCode 0xFFFBF000#32 ≠ 0b00#2 ∧ (fieldsOf 0xFFFBF000#32).bitrate = 15#4) ∧ (fieldsOf 0xFFFB0000#32).bitrate = 0#4 ∧
    (versionCode 0xFFFB9C00#32 ≠ 0b01#2 ∧ layerCode 0xFFFB9C00#32 ≠ 0b00#2 ∧ (fieldsOf 0xFFFB9C00#32).bitrate = 9#4 ∧
      (fieldsOf 0xFFFB9C00#32).rate = 3#2) ∧
    ((fieldsOf 0xFFFB9010#32).modeExt ≠ 0b00#2 ∧ Config.default.channelMode (fieldsOf 0xFFFB9010#32).channel ≠ .jointStereo) ∧
    ((fieldsOf 0xFFFB9002#32).modeExt = 0b00#2 ∧ (fieldsOf 0xFFFB9002#32).rate ≠ 3#2 ∧
      (fieldsOf 0xFFFB9002#32).emphasis = 0b10#2) ∧
    causeOf 0xFFF314C0#32 = 0#3 := by decide
theorem witness_HdIgnoresTheSyncBits : (0x001B9000#32).extractLsb' 0 21 = (0xFFFB9000#32).extractLsb' 0 21 := by decide
theorem witness_FrameLengthRange :
    (∃ d, decodeHeader Config.default 0xFFF314C0#32 = .ok d) ∧ Config.default.admissible = true :=
  ⟨⟨m2Desc, rfl⟩, default_admissible⟩

/-- The bytes of the least frame `M2` (24 bytes), or its first `k`. -/
def m2Bytes (k : Nat) : List Byte := ([0xFF#8, 0xF3#8, 0x14#8, 0xC0#8] ++ List.replicate 20 0#8).take k

/-- SC reading the frame `M2`, with `k` bytes still to come. -/
def m2In (st : Ctl) (mode : Mode) (k : Nat) : State := { State.reset with
  st, mode, n := 4, kind := .frame, need := k, desc := some m2Desc, w := ⟨0xFF#8, 0xF3#8, 0x14#8, 0xC0#8⟩
  buf := m2Bytes (24 - k), acks := 1, src := [.byte 0#8, .ended] }

theorem m2_body_inv (mode : Mode) : Machine.Inv (m2In .body mode 20) := by
  constructor <;> first
    | exact default_admissible
    | simp [m2In, Window.bytes, m2Bytes, Assembling, StartsFrame, m2Desc, State.reset]
  exact ⟨by decide, rfl⟩

theorem m2_done_inv (mode : Mode) : Machine.Inv (m2In .done mode 0) := by
  constructor <;> first
    | exact default_admissible
    | simp [m2In, Window.bytes, m2Bytes, Assembling, StartsFrame, m2Desc, State.reset]
  exact ⟨by decide, rfl⟩

/-- IDLE with a request, an acceptance and a source at its end. -/
def idleAtEnd (c : ReqCode) : State := { offered c with acks := 1, src := [.ended] }

theorem idleAtEnd_inv (c : ReqCode) : Machine.Inv (idleAtEnd c) := by
  constructor <;> first
    | exact default_admissible
    | simp [idleAtEnd, offered, State.reset, Cleared]

theorem witness_WidthsHoldEveryValue :
    (∃ d, decodeHeader Config.default 0xFFF314C0#32 = .ok d) ∧
      Machine.Inv (m2In .body .any 20) ∧ (m2In .body .any 20).cfg = Config.default :=
  ⟨⟨m2Desc, rfl⟩, m2_body_inv _, rfl⟩
theorem witness_RequestsAreAcceptedInIdle :
    (∀ c : ReqCode, (offered c).st = .idle ∧ (offered c).req = c :: []) ∧ (classifying 0#32).st ≠ .idle ∧
      ({ quietEdge with reqValid := true, reqMode := 0b11#2 } : PortIn).reqMode = 0b11#2 :=
  ⟨fun _ => ⟨rfl, rfl⟩, by decide, rfl⟩
theorem witness_ReservedRequestIsRefused :
    (offered 0b11#2).cfg.admissible = true ∧ resetNow (offered 0b11#2) = false ∧ (offered 0b11#2).st = .idle ∧
      (offered 0b11#2).req = 0b11#2 :: [] := ⟨default_admissible, rfl, rfl, rfl⟩
theorem witness_RequestsWaitWhileBusy :
    ((classifying 0#32).st ≠ .idle ∧ (nextOf (step { classifying 0#32 with req := [0#2] })).map (·.req) = some [0#2]) ∧
    ∀ c : ReqCode, (offered c).cfg.admissible = true ∧ resetNow (offered c) = false ∧ (offered c).st = .idle ∧
      (offered c).req = c :: [] ∧ (c ≠ 0b11#2 → (modeOf c).isSome = true) := by
  refine ⟨by decide +kernel, fun c => ⟨default_admissible, rfl, rfl, rfl, ?_⟩⟩
  revert c
  decide
theorem witness_TagStartsALegacyTag :
    (classifying 0x54414700#32).st = .classify ∧ (classifying 0x54414700#32).w = ⟨0x54#8, 0x41#8, 0x47#8, 0x00#8⟩ := by decide
theorem witness_Id3StartsAnExtendedTag :
    (classifying 0x494433FF#32).st = .classify ∧ (classifying 0x494433FF#32).w = ⟨0x49#8, 0x44#8, 0x33#8, 0xFF#8⟩ := by decide
/-- Each of the nine rows, with bitrate index 1 and the other fields 0. -/
theorem witness_FrameRowsStartAFrame :
    ∀ x ∈ [(Instr.frameMpeg1LIII (fields 1#4), 0xFFFA1000#32), (.frameMpeg1LII (fields 1#4), 0xFFFC1000#32),
        (.frameMpeg1LI (fields 1#4), 0xFFFE1000#32), (.frameMpeg2LIII (fields 1#4), 0xFFF21000#32),
        (.frameMpeg2LII (fields 1#4), 0xFFF41000#32), (.frameMpeg2LI (fields 1#4), 0xFFF61000#32),
        (.frameMpeg25LIII (fields 1#4), 0xFFE21000#32), (.frameMpeg25LII (fields 1#4), 0xFFE41000#32),
        (.frameMpeg25LI (fields 1#4), 0xFFE61000#32)],
      (classifying x.2).st = .classify ∧ encode x.1 = .window (classifying x.2).w.word ∧
        decOk (classifying x.2).cfg (classifying x.2).w.word = true := by decide
theorem witness_FalseSyncShiftsOneByte :
    (classifying 0xFFFFFFFF#32).st = .classify ∧ (classifying 0xFFFFFFFF#32).w.word = syncWord 0x1FFFFF#21 ∧
      ∃ c, hd Config.default 0xFF#8 0xFF#8 0xFF#8 0xFF#8 = .error c := ⟨rfl, by decide, .badBitrate, rfl⟩
theorem witness_NomatchShiftsOneByte :
    let s := classifying 0xFFDF0000#32
    s.st = .classify ∧ ¬ (s.w.w0 = 0x54#8 ∧ s.w.w1 = 0x41#8 ∧ s.w.w2 = 0x47#8) ∧
      ¬ (s.w.w0 = 0x49#8 ∧ s.w.w1 = 0x44#8 ∧ s.w.w2 = 0x33#8) ∧ ¬ (s.w.w0 = 0xFF#8 ∧ s.w.w1 &&& 0xE0#8 = 0xE0#8) := by decide
theorem witness_StepRunsTheDecodedInstruction :
    (State.reset.cfg.admissible = true ∧ resetNow State.reset = false ∧ State.reset.st = .idle ∧ State.reset.req = []) ∧
    ((offered 0b10#2).st = .idle ∧ (offered 0b10#2).req = 0b10#2 :: []) ∧ (classifying 0#32).st = .classify ∧
    ((tagIn .body .any 1).st ≠ .idle ∧ (tagIn .body .any 1).st ≠ .classify) := by
  exact ⟨⟨default_admissible, rfl, rfl, rfl⟩, ⟨rfl, rfl⟩, rfl, by decide, by decide⟩
/-- One window per action: the TAG, ID3 and false sync windows above, a frame, and a window without sync. -/
theorem witness_ClassifyTakesOneOfFourActions :
    (classifying 0x54414700#32).cfg.admissible = true ∧ resetNow (classifying 0x54414700#32) = false ∧
      (∃ d, hd Config.default 0xFF#8 0xF3#8 0x14#8 0xC0#8 = .ok d) ∧ (∃ c, hd Config.default 0xFF#8 0xFF#8 0xFF#8 0xFF#8 = .error c) ∧
      ¬ ((classifying 0xFFDF0000#32).w.w0 = 0xFF#8 ∧ (classifying 0xFFDF0000#32).w.w1 &&& 0xE0#8 = 0xE0#8) :=
  ⟨default_admissible, rfl, ⟨m2Desc, rfl⟩, ⟨.badBitrate, rfl⟩, by decide⟩

/-- A state that reads, before each of the three answers. -/
def reading (st : Ctl) (n need : Nat) (src : List SrcAnswer) : State := { State.reset with
  st, n, need, src, buf := [0x49#8, 0x44#8, 0x33#8, 0x04#8, 0#8, 0#8, 0#8, 0#8, 0#8] }

theorem reading_runs (st : Ctl) (n need : Nat) (src : List SrcAnswer) :
    (reading st n need src).cfg.admissible = true ∧ resetNow (reading st n need src) = false ∧
      (reading st n need src).st = st ∧ (reading st n need src).src = src ∧ (reading st n need src).need = need :=
  ⟨default_admissible, rfl, rfl, rfl, rfl⟩

/-- The first and the last fill byte; `reading_runs` gives the other hypotheses, for each answer of SRC. -/
theorem witness_FillReadsAWindowByte :
    (reading .fill 0 0 [.byte 1#8]).n < 4 ∧ (reading .fill 3 0 [.ended]).n < 4 ∧ (reading .fill 3 0 []).st = .fill ∧
      (reading .fill 3 0 []).src = [] := by decide
theorem witness_ShiftAdvancesByOneByte :
    (reading .shift 4 0 []).src = [] ∧ (reading .shift 4 0 [.ended]).src = .ended :: [] ∧
      (reading .shift 4 0 [.byte 9#8]).src = .byte 9#8 :: [] ∧ (reading .shift 4 0 []).st = .shift := by decide
theorem witness_HeaderBytesOfAnExtendedTag :
    (reading .id3hdr 4 2 [.byte 1#8]).st = .id3hdr ∧ 2 ≤ (reading .id3hdr 4 2 [.byte 1#8]).need ∧
    (reading .id3hdr 4 6 []).src = [] ∧ (reading .id3hdr 4 6 [.ended]).src = .ended :: [] ∧
    (let s := lastHeaderByte 5#8;
      s.src = .byte 5#8 :: [] ∧ s.need = 1 ∧ s.buf[6]? = some 0#8 ∧ s.buf[7]? = some 0#8 ∧ s.buf[8]? = some 0#8) := by decide
theorem witness_BodyReadsTheRemainingBytes :
    (reading .body 4 1 [.byte 1#8]).st = .body ∧ 1 ≤ (reading .body 4 1 [.byte 1#8]).need ∧
    1 ≤ (reading .body 4 2 []).need ∧ (reading .body 4 2 []).src = [] ∧ (reading .body 4 1 [.ended]).src = .ended :: [] := by decide

/-- A finished object of a kind, for a filter mode. -/
def finished (k : Kind) (m : Mode) (acks : Nat) : State := { m2In .done m 0 with kind := k, acks }

theorem witness_DoneEmitsOrDiscards :
    (finished .frame .any 0).cfg.admissible = true ∧ resetNow (finished .frame .any 0) = false ∧
    (finished .frame .any 0).st = .done ∧
    ((finished .frame .frameOnly 0).mode = .frameOnly ∧ (finished .frame .frameOnly 0).kind = .frame ∧
      (finished .frame .frameOnly 0).desc = some m2Desc ∧ (finished .frame .frameOnly 0).acks = 0) ∧
    ((finished .id3v1 .any 1).mode = .any ∧ (finished .id3v1 .any 1).kind = .id3v1 ∧ (finished .id3v1 .any 1).acks = 0 + 1) ∧
    ((finished .id3v2 .id3v2Only 1).mode = .id3v2Only ∧ (finished .id3v2 .id3v2Only 1).kind = .id3v2) ∧
    ((finished .id3v2 .frameOnly 1).mode = .frameOnly ∧ (finished .id3v2 .frameOnly 1).kind ≠ .frame) := by
  refine ⟨default_admissible, rfl, ?_⟩
  decide
theorem witness_EosrReportsEndOfStream :
    (reading .eosr 4 0 []).st = .eosr ∧ (reading .eosr 4 0 []).acks = 0 ∧
      ({ reading .eosr 4 0 [] with acks := 1 } : State).acks = 0 + 1 := by decide
/-- Each of the four reading states gets `End`, and enters end-of-stream from a state that is not EOSR. -/
theorem witness_EndOfStreamEntry :
    ∀ st ∈ [Ctl.fill, .shift, .id3hdr, .body], (reading st 3 2 [.ended]).src = .ended :: [] ∧ st ≠ .eosr ∧
      (nextOf (step (reading st 3 2 [.ended]))).map (·.st) = some .eosr := by decide +kernel

/-- A step that is no reset, and one that is. -/
def resetOf (s : State) : State := { s with rst := [true] }

/-- For the statements about every step: a next state, without a reset and with one. -/
theorem witness_StateGraph :
    (step (offered 0#2) = .next { State.reset with st := .fill } ∧ resetNow (offered 0#2) = false) ∧
      (step (resetOf (tagIn .body .any 1)) = .next { State.reset with acks := 1, src := [.byte 7#8] } ∧
        resetNow (resetOf (tagIn .body .any 1)) = true) :=
  ⟨⟨of_nextOf (by decide +kernel), rfl⟩, of_nextOf (by decide +kernel), rfl⟩
theorem witness_SourceIsReadByteByByte :
    (∃ t, step (reading .shift 4 0 [.byte 1#8]) = .next t ∧ t.pos = 1) ∧ resetNow (reading .shift 4 0 [.byte 1#8]) = false ∧
    (∃ t, step (resetOf (reading .shift 4 0 [.byte 1#8])) = .next t ∧ t.pos = 0) ∧
      resetNow (resetOf (reading .shift 4 0 [.byte 1#8])) = true :=
  ⟨⟨_, rfl, rfl⟩, rfl, ⟨_, rfl, rfl⟩, rfl⟩
theorem witness_EmissionAppendsOneObject :
    (∃ t, step (finished .frame .any 1) = .next t ∧ t.outs = [.frame m2Desc (m2Bytes 24)]) ∧
      resetNow (finished .frame .any 1) = false ∧
    (∃ t, step (finished .frame .any 0) = .next t ∧ t.outs = []) := ⟨⟨_, rfl, rfl⟩, rfl, ⟨_, rfl, rfl⟩⟩
theorem witness_WhoWritesWhichRegister :
    (∃ t, step (reading .fill 3 0 [.byte 1#8]) = .next t ∧ t.w ≠ (reading .fill 3 0 [.byte 1#8]).w ∧ t.n = 4) ∧
      resetNow (reading .fill 3 0 [.byte 1#8]) = false ∧
    (∃ t, step (offered 0b01#2) = .next t ∧ t.mode ≠ (offered 0b01#2).mode) ∧
    (∃ t, step (classifying 0xFFF314C0#32) = .next t ∧ t.kind = .frame ∧ t.desc = some m2Desc ∧ t.need = 20 ∧ t.buf ≠ []) :=
  ⟨⟨_, rfl, by decide +kernel, rfl⟩, rfl, ⟨_, rfl, by decide +kernel⟩, ⟨_, rfl, rfl, rfl, rfl, by decide +kernel⟩⟩
/-- Two steps, CLASSIFY to SHIFT to CLASSIFY. -/
theorem witness_ForwardProgress :
    (∃ t, run 2 { classifying 0#32 with src := [.byte 1#8] } = .next t ∧ t.st = .classify) ∧
      (classifying 0#32).rst = [] ∧ (classifying 0#32).st = .classify ∧ 0 < 2 := ⟨⟨_, rfl, rfl⟩, rfl, rfl, by decide⟩
theorem witness_StepKeepsInvariant :
    Machine.Inv (m2In .body .any 20) ∧ ∃ t, step (m2In .body .any 20) = .next t ∧ t.need = 19 :=
  ⟨m2_body_inv _, _, rfl, rfl⟩
theorem witness_NoStepFaults :
    Machine.Inv (m2In .body .any 20) ∧ Machine.Inv (idleAtEnd 0b11#2) ∧
      step (idleAtEnd 0b11#2) = .refused .reservedRequestMode := ⟨m2_body_inv _, idleAtEnd_inv _, rfl⟩
theorem witness_EmittedObjectsAreWellFormed :
    Machine.Inv (m2In .done .any 0) ∧ ∃ t, run 1 (m2In .done .any 0) = .next t ∧ .frame m2Desc (m2Bytes 24) ∈ t.outs :=
  ⟨m2_done_inv _, _, rfl, by simp [m2In, m2Bytes, State.reset]⟩
theorem witness_EveryRequestEndsInOneEmission :
    Machine.Inv (idleAtEnd 0b01#2) ∧ (idleAtEnd 0b01#2).rst = [] ∧ (idleAtEnd 0b01#2).st = .idle ∧
      (idleAtEnd 0b01#2).req = 0b01#2 :: [] ∧ 0b01#2 ≠ 0b11#2 ∧ 0 < (idleAtEnd 0b01#2).acks ∧
      .ended ∈ (idleAtEnd 0b01#2).src ∧ (∃ t, run 1 (idleAtEnd 0b01#2) = .next t ∧ t.st = .fill) :=
  ⟨idleAtEnd_inv _, rfl, rfl, rfl, by decide, by decide, by decide, _, rfl, rfl⟩
/-- A request for an Extended Tag over the frame `M2` and the end of the stream. -/
theorem witness_RequestRefinesNextObject :
    let s : State := { idleAtEnd 0b10#2 with src := (m2Bytes 24).map .byte ++ [.ended] }
    s.cfg.admissible = true ∧ s.rst = [] ∧ s.st = .idle ∧ s.req = 0b10#2 :: [] ∧ modeOf 0b10#2 = some .id3v2Only ∧
      0 < s.acks ∧ nextPassing s.cfg .id3v2Only 2 s.src = some ⟨.endOfStream, [], 24⟩ :=
  ⟨default_admissible, rfl, rfl, rfl, by decide, by decide, by decide +kernel⟩
theorem witness_BackToBackFrames :
    let frames := [(m2Desc, m2Bytes 24), (m2Desc, m2Bytes 24)]
    let s : State := { State.reset with
      req := [0b00#2, 0b00#2], acks := 2, src := ((frames.map Prod.snd).flatten.map SrcAnswer.byte) ++ [.ended] }
    s.cfg.admissible = true ∧ s.rst = [] ∧ s.st = .idle ∧
      (∀ x ∈ frames, x.2.length = x.1.frameLength ∧ StartsFrame s.cfg x.1 x.2) ∧
      s.req = List.replicate frames.length 0b00#2 ++ [] ∧ frames.length ≤ s.acks := by
  refine ⟨default_admissible, rfl, rfl, ?_, rfl, by decide⟩
  intro x hx
  simp only [List.mem_cons, List.not_mem_nil, or_false, or_self] at hx
  subst hx
  exact ⟨by decide, by decide, rfl⟩
/-- One byte of the 20 missing ones arrives before `End`; and in ID3HDR, none of the last one. -/
theorem witness_TruncatedObjectEndsTheRequest :
    (let s := m2In .body .any 20;
      s.cfg.admissible = true ∧ s.rst = [] ∧ s.st = .body ∧ [0#8].length < s.need ∧
        s.src = [0#8].map SrcAnswer.byte ++ .ended :: [] ∧ 0 < s.acks) ∧
    (let s := reading .id3hdr 4 1 [.ended];
      s.st = .id3hdr ∧ ([] : List Byte).length < s.need ∧ s.src = ([] : List Byte).map SrcAnswer.byte ++ .ended :: []) :=
  ⟨⟨default_admissible, rfl, rfl, by decide, rfl, by decide⟩, rfl, by decide, rfl⟩
theorem witness_LeftoversAreNeverObserved :
    let s : State := { m2In .idle .frameOnly 0 with req := [0#2] }
    let s' : State := { offered 0#2 with acks := 1, src := [.byte 0#8, .ended] }
    s.st = .idle ∧ s.seen = s'.seen ∧ s ≠ s' := by decide +kernel

/-! The port level -/

/-- The realisation reading `M2`: 4 bytes, of which one is delivered. -/
def m2Ports : PortState :=
  { sc := m2In .body .any 20, delivered := m2Bytes 1, pend := (m2Bytes 4).drop 1, edges := 5 }

/-- `M2` read whole and delivered. -/
def m2Committing : PortState := { sc := m2In .done .any 0, delivered := m2Bytes 24, pend := [], edges := 50 }

/-- SC waiting for a request. -/
def idlePorts : PortState := { sc := idleAtEnd 0b00#2, delivered := [], pend := [], edges := 1 }

/-- SC with an outstanding `SrcRead()`. -/
def readingPorts : PortState := { m2Ports with delivered := m2Bytes 4, pend := [] }

theorem m2Ports_inv : PortInv m2Ports :=
  ⟨m2_body_inv _, fun _ => rfl, fun h => absurd ⟨.inr (.inl rfl), rfl⟩ h, fun h => absurd ⟨.inr (.inl rfl), rfl⟩ h⟩
theorem m2Committing_inv : PortInv m2Committing :=
  ⟨m2_done_inv _, fun _ => rfl, fun _ => rfl, fun h => absurd ⟨.inr (.inr rfl), rfl⟩ h⟩
theorem readingPorts_inv : PortInv readingPorts :=
  ⟨m2_body_inv _, fun _ => rfl, fun _ => rfl, fun h => absurd ⟨.inr (.inl rfl), rfl⟩ h⟩
theorem idlePorts_inv : PortInv idlePorts :=
  ⟨idleAtEnd_inv _, fun h => by simp [Streaming, idlePorts, idleAtEnd, offered, State.reset] at h, fun _ => rfl, fun _ _ => rfl⟩

theorem witness_PortEdgeKeepsInvariant : PortInv m2Ports := m2Ports_inv
theorem witness_CommitCarriesTheDeliveredPayload :
    PortInv m2Committing ∧ (outputs quietEdge m2Committing).objValid = true ∧ m2Committing.sc.st = .done ∧
      ({ quietEdge with objReady := true } : PortIn).objReady = true ∧ quietEdge.objReady = false :=
  ⟨m2Committing_inv, by decide, rfl, rfl, rfl⟩
theorem witness_PortHandshakes :
    (quietEdge.rst = false ∧ PortInv idlePorts ∧ idlePorts.sc.st = .idle) ∧
    (PortInv readingPorts ∧ (outputs quietEdge readingPorts).srcReq = true ∧
      ({ quietEdge with srcEnd := true, srcValid := true } : PortIn).srcEnd = true) ∧
    (PortInv m2Ports ∧ (outputs quietEdge m2Ports).payValid = true) ∧
    (PortInv m2Committing ∧ (outputs quietEdge m2Committing).objValid = true ∧ quietEdge.objReady = false) :=
  ⟨⟨rfl, idlePorts_inv, rfl⟩, ⟨readingPorts_inv, by decide, rfl⟩, ⟨m2Ports_inv, by decide⟩, m2Committing_inv, by decide, rfl⟩
/-- One edge that transfers each of the three, one that only waits, and a reset. -/
theorem witness_PortRunIsATransactionRun :
    PortInv idlePorts ∧ transfers [{ quietEdge with reqValid := true }] idlePorts = ⟨[], [0#2], 0, [false]⟩ ∧
    PortInv readingPorts ∧ transfers [{ quietEdge with srcValid := true, srcData := 7#8 }] readingPorts
      = ⟨[.byte 7#8], [], 0, [false]⟩ ∧
    PortInv m2Committing ∧ transfers [{ quietEdge with objReady := true }] m2Committing = ⟨[], [], 1, [false]⟩ ∧
    PortInv m2Ports ∧ transfers [quietEdge, quietEdge, resetEdge] m2Ports = ⟨[], [], 0, [true]⟩ :=
  ⟨idlePorts_inv, by decide, readingPorts_inv, by decide, m2Committing_inv, by decide, m2Ports_inv, by decide⟩
theorem witness_ResetEdgeAbandonsTheStreamedPayload :
    m2Ports.sc.cfg.admissible = true ∧ resetEdge.rst = true ∧ m2Ports.pend ≠ [] ∧ m2Ports.delivered ≠ [] :=
  ⟨default_admissible, rfl, by decide, by decide⟩

/-- `End` came after the four window bytes of `M2` had been delivered. -/
def abortingPorts : PortState :=
  { sc := { State.reset with st := .eosr, n := 4, w := ⟨0xFF#8, 0xF3#8, 0x14#8, 0xC0#8⟩, pos := 4 }
    delivered := m2Bytes 4, pend := [], edges := 9 }

theorem abortingPorts_inv : PortInv abortingPorts := by
  refine ⟨?_, fun h => by simp [Streaming, abortingPorts] at h, fun _ => rfl, fun _ h => absurd rfl h⟩
  constructor <;> first
    | exact default_admissible
    | simp [abortingPorts, State.reset, Cleared]

theorem witness_AbortIsTheEndOfStreamObject :
    PortInv abortingPorts ∧ abortingPorts.sc.st = .eosr ∧ quietEdge.rst = false ∧ quietEdge.objReady = false ∧
      ({ quietEdge with objReady := true } : PortIn).objReady = true := ⟨abortingPorts_inv, rfl, rfl, rfl, rfl⟩
theorem witness_FrameCommitShowsTheDescriptor :
    PortInv m2Committing ∧ (outputs quietEdge m2Committing).objValid = true ∧ m2Committing.sc.st = .done ∧
      m2Committing.sc.kind = .frame := ⟨m2Committing_inv, by decide, rfl, rfl⟩
/-- The ports of the commit of `M2` (V-HD-7): version code 10, layer code 01, channel mode code 11. -/
theorem test_frame_commit_ports :
    (outputs quietEdge m2Committing).objLen = 24#29 ∧
    (outputs quietEdge m2Committing).desc =
      ⟨0b10#2, 0b01#2, false, 8000, 24000, false, 0#1, false, false, 0b11#2, 0#2, 0#2, 576#11, 24⟩ := by decide +kernel
/-- A window that HD accepts, and one that it rejects (V-HD-13). -/
theorem witness_DiagnosticPortsShowHdFlags :
    (classifying 0xFFF314C0#32).st = .classify ∧ hasSync (classifying 0xFFF314C0#32).w.word = true ∧
      hasSync (classifying 0xFFFBF000#32).w.word = true ∧
      hd Config.default 0xFF#8 0xFB#8 0xF0#8 0x00#8 = .error .badBitrate := ⟨rfl, by decide, by decide, rfl⟩
theorem witness_PortsHoldWhatTheyShow :
    PortInv m2Committing ∧ PortInv idlePorts := ⟨m2Committing_inv, idlePorts_inv⟩
/-- The two states of the witness above, and two in FILL that differ only in a byte not yet filled. -/
theorem witness_StepKeepsAgreement :
    (Agree { m2In .idle .frameOnly 0 with req := [0#2] } { offered 0#2 with acks := 1, src := [.byte 0#8, .ended] }) ∧
    Agree (reading .fill 1 0 []) { reading .fill 1 0 [] with w := ⟨0#8, 9#8, 9#8, 9#8⟩ } ∧
    (reading .fill 1 0 []).w ≠ ⟨0#8, 9#8, 9#8, 9#8⟩ :=
  ⟨⟨by decide +kernel, trivial⟩, ⟨rfl, rfl, rfl, rfl, rfl, rfl, rfl, by decide⟩, by decide⟩

end Sys2Proof.Tests
end

section
/-!
Agreement of two states that differ only in leftovers (rule R38): what `Agree` says in each control state, and that one
step of SC, and so one step of MFHD, keeps it, stops included (`step_agree`).
-/

namespace Sys2Proof.Machine

/-! ### What `Agree` says in each control state -/

theorem seen_eq_iff {s s' : State} : s.seen = s'.seen ↔
    s.cfg = s'.cfg ∧ s.st = s'.st ∧ s.pos = s'.pos ∧ s.outs = s'.outs ∧ s.src = s'.src ∧ s.req = s'.req ∧
      s.acks = s'.acks ∧ s.rst = s'.rst := by
  simp [State.seen]

theorem agree_refl (s : State) : Agree s s := by
  refine ⟨rfl, ?_⟩
  cases s.st <;> simp

/-- IDLE and EOSR read none of the leftovers of rule R38. -/
theorem agree_of_seen {s s' : State} (hst : s.st = .idle ∨ s.st = .eosr) (h : s.seen = s'.seen) : Agree s s' := by
  refine ⟨h, ?_⟩
  rcases hst with hst | hst <;> simp [hst]

theorem agree_fill_iff {s s' : State} (hst : s.st = .fill) : Agree s s' ↔
    s.seen = s'.seen ∧ s.n = s'.n ∧ s.mode = s'.mode ∧ s.kind = s'.kind ∧ s.need = s'.need ∧ s.buf = s'.buf ∧
      s.desc = s'.desc ∧ ∀ k < s.n, s.w.bytes[k]? = s'.w.bytes[k]? := by
  simp only [Agree, hst]

/-- Outside IDLE, EOSR and FILL agreement is equality. -/
theorem Agree.eq {s s' : State} (h : Agree s s') (hi : s.st ≠ .idle) (he : s.st ≠ .eosr) (hf : s.st ≠ .fill) :
    s = s' := by
  obtain ⟨-, h⟩ := h
  cases hst : s.st <;> simp_all

theorem Agree.sampleReset {s s' : State} (h : Agree s s') : Agree (sampleReset s) (sampleReset s') := by
  obtain ⟨hseen, h⟩ := h
  refine ⟨congrArg (fun x : Seen => { x with rst := x.rst.tail }) hseen, ?_⟩
  cases hst : s.st <;> simp_all

/-! ### Outcomes that agree -/

/-- Two outcomes agree: next states that agree, or the same fault, or the same refusal. -/
inductive AgreeOutcomes : Result → Result → Prop where
  | next {t t' : State} (h : Agree t t') : AgreeOutcomes (.next t) (.next t')
  | fault (f : Fault) : AgreeOutcomes (.fault f) (.fault f)
  | refused (r : Refusal) : AgreeOutcomes (.refused r) (.refused r)

theorem agreeOutcomes_refl (r : Result) : AgreeOutcomes r r := by
  cases r with
  | next t => exact .next (agree_refl t)
  | fault f => exact .fault f
  | refused r => exact .refused r

theorem agreeOutcomes_cases {r r' : Result} (h : AgreeOutcomes r r') :
    (∃ t t', r = .next t ∧ r' = .next t' ∧ Agree t t') ∨ (∃ f, r = .fault f ∧ r' = .fault f) ∨
      (∃ x, r = .refused x ∧ r' = .refused x) := by
  cases h with
  | next h => exact .inl ⟨_, _, rfl, rfl, h⟩
  | fault f => exact .inr (.inl ⟨f, rfl, rfl⟩)
  | refused x => exact .inr (.inr ⟨x, rfl, rfl⟩)

/-! ### The window while it is filled -/

theorem bytes_write (w : Window) (n : Nat) (b : Byte) : (w.write n b).bytes = w.bytes.set n b := by
  match n with
  | 0 => rfl
  | 1 => rfl
  | 2 => rfl
  | 3 => rfl
  | _ + 4 => rfl

theorem window_eq_of_bytes {w w' : Window} (h : ∀ k < 4, w.bytes[k]? = w'.bytes[k]?) : w = w' := by
  have hbytes : w.bytes = w'.bytes := by
    refine List.ext_getElem? fun k => ?_
    by_cases hk : k < 4
    · exact h k hk
    · simp [Window.bytes, hk]
  cases w
  cases w'
  simpa [Window.bytes] using hbytes

/-- Writing byte `n` makes two windows that agree below `n` agree below `n + 1`. -/
theorem write_agree_below {w w' : Window} {n : Nat} (b : Byte) (h : ∀ k < n, w.bytes[k]? = w'.bytes[k]?) :
    ∀ k < n + 1, (w.write n b).bytes[k]? = (w'.write n b).bytes[k]? := by
  intro k hk
  rw [bytes_write, bytes_write, List.getElem?_set, List.getElem?_set]
  by_cases hkn : n = k
  · simp [hkn, Window.bytes]
  · simp [hkn, h k (by omega)]

/-! ### The steps that stop -/

/-- The reserved code alone carries no filter mode (rule R75). -/
theorem modeOf_eq_none_iff : ∀ c : ReqCode, modeOf c = none ↔ c = 0b11#2 := by decide

theorem scStep_reserved {s : State} {c : ReqCode} {rest : List ReqCode} (hst : s.st = .idle) (hreq : s.req = c :: rest)
    (hm : modeOf c = none) : scStep s = .refused .reservedRequestMode := by
  have hf : fetch s = some (.request c) := by simp [fetch, hst, hreq]
  rw [scStep_fetched hf, (modeOf_eq_none_iff c).1 hm]
  rfl

theorem scStep_fill_full {s : State} {b : Byte} {rest : List SrcAnswer} (hst : s.st = .fill)
    (hsrc : s.src = .byte b :: rest) (hn : ¬ s.n < 4) : scStep s = .fault .fillCountAboveThree := by
  rw [scStep_fill hst, fillStep, withSrcRead_byte _ hsrc, if_neg hn]

theorem step_inadmissible {s : State} (hc : s.cfg.admissible = false) :
    step s = .refused .inadmissibleConfiguration := by
  simp [step, hc]

/-! ### Agreement is kept, control state by control state -/

theorem scStep_idle_agree {s s' : State} (h : s.seen = s'.seen) (hst : s.st = .idle) :
    AgreeOutcomes (scStep s) (scStep s') := by
  obtain ⟨hcfg, hst', hpos, houts, hsrc, hreq, hacks, hrst⟩ := seen_eq_iff.1 h
  rw [hst] at hst'
  cases hr : s.req with
  | nil =>
    rw [scStep_idle_waiting hst hr, scStep_idle_waiting hst'.symm (hreq ▸ hr)]
    exact .next (agree_of_seen (.inl hst) h)
  | cons c rest =>
    rw [hr] at hreq
    cases hm : modeOf c with
    | none =>
      rw [scStep_reserved hst hr hm, scStep_reserved hst'.symm hreq.symm hm]
      exact .refused _
    | some m =>
      rw [scStep_accept hst hr hm, scStep_accept hst'.symm hreq.symm hm]
      exact .next ((agree_fill_iff rfl).2 (by simp [seen_eq_iff, *]))

theorem scStep_eosr_agree {s s' : State} (h : s.seen = s'.seen) (hst : s.st = .eosr) :
    AgreeOutcomes (scStep s) (scStep s') := by
  obtain ⟨hcfg, hst', hpos, houts, hsrc, hreq, hacks, hrst⟩ := seen_eq_iff.1 h
  rw [hst] at hst'
  cases ha : s.acks with
  | zero =>
    rw [scStep_report_waiting hst ha, scStep_report_waiting hst'.symm (hacks ▸ ha)]
    exact .next (agree_of_seen (.inr hst) h)
  | succ k =>
    rw [scStep_report hst ha, scStep_report hst'.symm (hacks ▸ ha)]
    exact .next (agree_of_seen (.inl rfl) (by simp [seen_eq_iff, *]))

/-- The byte that FILL reads: the windows agree in one byte more, and once the window is full the states are equal. -/
theorem scStep_fill_byte_agree {s s' : State} {b : Byte} {rest : List SrcAnswer} (h : Agree s s') (hst : s.st = .fill)
    (hsrc : s.src = .byte b :: rest) : AgreeOutcomes (scStep s) (scStep s') := by
  obtain ⟨hseen, hn, hmode, hkind, hneed, hbuf, hdesc, hw⟩ := (agree_fill_iff hst).1 h
  obtain ⟨hcfg, hst', hpos, houts, hsrc', hreq, hacks, hrst⟩ := seen_eq_iff.1 hseen
  rw [hst] at hst'
  rw [hsrc] at hsrc'
  by_cases hroom : s.n < 4
  · rw [scStep_fill_byte hst hsrc hroom, scStep_fill_byte hst'.symm hsrc'.symm (hn ▸ hroom)]
    have hw' := write_agree_below b hw
    rw [hn] at hw'
    by_cases hfull : s.n + 1 = 4
    · have hweq : s.w.write s'.n b = s'.w.write s'.n b := window_eq_of_bytes (by rwa [← hn, hfull, hn] at hw')
      simp only [hcfg, hn, hmode, hkind, hneed, hbuf, hdesc, hpos, houts, hreq, hacks, hrst, hweq]
      exact agreeOutcomes_refl _
    · have hfull' : ¬ s'.n + 1 = 4 := hn ▸ hfull
      refine .next ((agree_fill_iff (if_neg hfull)).2 ?_)
      simp_all [seen_eq_iff]
  · rw [scStep_fill_full hst hsrc hroom, scStep_fill_full hst'.symm hsrc'.symm (hn ▸ hroom)]
    exact .fault _

theorem scStep_fill_agree {s s' : State} (h : Agree s s') (hst : s.st = .fill) :
    AgreeOutcomes (scStep s) (scStep s') := by
  obtain ⟨hcfg, hst', hpos, houts, hsrc', hreq, hacks, hrst⟩ := seen_eq_iff.1 h.1
  have hreads : reads s.st = true := by simp [hst, reads]
  have hreads' : reads s'.st = true := hst' ▸ hreads
  cases hsrc : s.src with
  | nil =>
    rw [scStep_read_waiting hreads hsrc, scStep_read_waiting hreads' (hsrc' ▸ hsrc)]
    exact .next h
  | cons a rest =>
    cases a with
    | ended =>
      rw [scStep_ended hreads hsrc, scStep_ended hreads' (hsrc' ▸ hsrc)]
      exact .next (agree_of_seen (.inr rfl) (by simp [seen_eq_iff, *]))
    | byte b => exact scStep_fill_byte_agree h hst hsrc

theorem scStep_agree {s s' : State} (h : Agree s s') : AgreeOutcomes (scStep s) (scStep s') := by
  by_cases hi : s.st = .idle
  · exact scStep_idle_agree h.1 hi
  by_cases he : s.st = .eosr
  · exact scStep_eosr_agree h.1 he
  by_cases hf : s.st = .fill
  · exact scStep_fill_agree h hf
  obtain rfl := h.eq hi he hf
  exact agreeOutcomes_refl _

theorem step_agree {s s' : State} (h : Agree s s') : AgreeOutcomes (step s) (step s') := by
  obtain ⟨hcfg, hst, hpos, houts, hsrc, hreq, hacks, hrst⟩ := seen_eq_iff.1 h.1
  cases hc : s.cfg.admissible with
  | false =>
    rw [step_inadmissible hc, step_inadmissible (hcfg ▸ hc)]
    exact .refused _
  | true =>
    have hnow : resetNow s' = resetNow s := by rw [resetNow, resetNow, hrst]
    cases hr : resetNow s with
    | true =>
      rw [step_reset hc hr, step_reset (hcfg ▸ hc) (hnow.trans hr)]
      exact .next (agree_of_seen (.inl rfl) (by simp [seen_eq_iff, *]))
    | false =>
      rw [step_running hc hr, step_running (hcfg ▸ hc) (hnow.trans hr)]
      exact scStep_agree h.sampleReset

/-- Settles O58: by the control state of the two states, then by what the environment offers. -/
theorem stepKeepsAgreement : Obligations.StepKeepsAgreement :=
  fun _ _ h => agreeOutcomes_cases (step_agree h)

end Sys2Proof.Machine
end

section
/-!
The header word and the window's bytes (rule R11).
-/

namespace Sys2Proof.Machine

theorem headerByte_toNat (h : HeaderWord) (k : Nat) : (headerByte h k).toNat = h.toNat / 2 ^ (8 * (3 - k)) % 2 ^ 8 := by
  rw [headerByte, BitVec.extractLsb'_toNat, Nat.shiftRight_eq_div_pow]

theorem headerByte_getLsbD (h : HeaderWord) (k : Nat) {j : Nat} (hj : j < 8) :
    (headerByte h k).getLsbD j = h.getLsbD (8 * (3 - k) + j) := by
  simp [headerByte, hj]

/-- A word of 32 bits is the sum of its four bytes, each times its place value. -/
theorem headerWord_toNat (b0 b1 b2 b3 : Byte) : (headerWord b0 b1 b2 b3).toNat =
    b0.toNat * 2 ^ 24 + b1.toNat * 2 ^ 16 + b2.toNat * 2 ^ 8 + b3.toNat := by
  have h0 := headerByte_headerWord_0 b0 b1 b2 b3 ▸ headerByte_toNat (headerWord b0 b1 b2 b3) 0
  have h1 := headerByte_headerWord_1 b0 b1 b2 b3 ▸ headerByte_toNat (headerWord b0 b1 b2 b3) 1
  have h2 := headerByte_headerWord_2 b0 b1 b2 b3 ▸ headerByte_toNat (headerWord b0 b1 b2 b3) 2
  have h3 := headerByte_headerWord_3 b0 b1 b2 b3 ▸ headerByte_toNat (headerWord b0 b1 b2 b3) 3
  have := (headerWord b0 b1 b2 b3).isLt
  omega

theorem headerByte_of_bytes {w : Window} {k : Nat} {b : Byte} (h : w.bytes[k]? = some b) : headerByte w.word k = b := by
  match k with
  | 0 => simpa [Window.bytes, Window.word] using h
  | 1 => simpa [Window.bytes, Window.word] using h
  | 2 => simpa [Window.bytes, Window.word] using h
  | 3 => simpa [Window.bytes, Window.word] using h
  | _ + 4 => simp [Window.bytes] at h

/-- Settles O9: each window byte is an extract of the word, and the word the sum of its bytes. -/
theorem headerWordIsBigEndian : Obligations.HeaderWordIsBigEndian := by
  refine ⟨headerWord_toNat, fun w k j b hb hj => ?_⟩
  rw [← headerByte_getLsbD _ _ hj, headerByte_of_bytes hb]

end Sys2Proof.Machine
end

section
/-!
The widths of rule R9: what HD answers under a configuration comes from that configuration's tables, the bounds of the
default tables, and the size of the object under assembly in a state that meets the invariant.
-/

namespace Sys2Proof.Machine

/-- HD's numbers are entries of the configuration's tables and the length computed from them (rules R104, R105, R108
to R110). -/
theorem decodeHeader_entries {cfg : Config} {h : HeaderWord} {d : FrameDescriptor} (hd : decodeHeader cfg h = .ok d) :
    ∃ v l kbps padded, kbps ∈ (cfg.bitrateColumn (family v) l).toList ∧
      d.samplingRate ∈ (cfg.sampleRateColumn v).toList ∧ d.bitRate = kbps * 1000 ∧ d.sampleCount = sampleCount v l ∧
      d.frameLength = frameLength d.sampleCount d.bitRate d.samplingRate (paddingBytes padded l) := by
  obtain ⟨v, l, bitRate, hz, _, _, -, -, hb, hs, -, -, rfl⟩ := decodeFields_ok hd
  obtain ⟨hi, -, rfl⟩ := hdBitRate_ok.1 hb
  obtain ⟨hj, rfl⟩ := hdSamplingRate_ok.1 hs
  exact ⟨v, l, _, _, by simp, by simp, rfl, rfl, rfl⟩

theorem paddingBytes_le (padded : Bool) (l : Layer) : paddingBytes padded l ≤ 4 := by
  unfold paddingBytes
  split_ifs <;> decide

/-! ### The default tables (rules R30, R31; assumption 1) -/

theorem default_bitrate_le (v : Version) (l : Layer) : ∀ kbps ∈ (Config.default.bitrateColumn (family v) l).toList,
    sampleCount v l / 8 * (kbps * 1000) ≤ 55296000 ∧ kbps * 1000 ≤ 448000 := by
  cases v <;> cases l <;> decide

theorem default_samplingRate_le (v : Version) : ∀ hz ∈ (Config.default.sampleRateColumn v).toList, hz ≤ 48000 := by
  cases v <;> decide

/-- The longest frames, of 2880 bytes before the padding, are those of Layer II at 160 kbps and 8000 Hz. -/
theorem default_product_le (v : Version) (l : Layer) : ∀ kbps ∈ (Config.default.bitrateColumn (family v) l).toList,
    ∀ hz ∈ (Config.default.sampleRateColumn v).toList, sampleCount v l / 8 * (kbps * 1000) ≤ hz * 2880 := by
  cases v <;> cases l <;> decide

theorem default_frameLength_le {h : HeaderWord} {d : FrameDescriptor} (hd : decodeHeader Config.default h = .ok d) :
    d.frameLength ≤ 2884 := by
  obtain ⟨v, l, kbps, padded, hk, hz, hb, hc, hl⟩ := decodeHeader_entries hd
  have hq : d.sampleCount / 8 * d.bitRate / d.samplingRate ≤ 2880 :=
    Nat.div_le_of_le_mul (by rw [hb, hc]; exact default_product_le v l kbps hk _ hz)
  have := paddingBytes_le padded l
  rw [hl, frameLength]
  omega

/-! ### The object under assembly -/

theorem synchsafe_lt (s6 s7 s8 s9 : Byte) : synchsafe s6 s7 s8 s9 < 2 ^ 28 := by
  have low (b : Byte) : (b &&& 0x7F#8).toNat < 128 := by
    rw [BitVec.toNat_and]
    exact Nat.lt_succ_of_le Nat.and_le_right
  have h6 := low s6
  have h7 := low s7
  have h8 := low s8
  have h9 := low s9
  unfold synchsafe
  omega

theorem declaredSize_lt {p : List Byte} {size : Nat} (h : declaredSize p = some size) : size < 2 ^ 28 := by
  unfold declaredSize at h
  split at h
  · exact Option.some.inj h ▸ synchsafe_lt ..
  · cases h

theorem startsFrame_decodes {cfg : Config} {d : FrameDescriptor} {p : List Byte} (h : StartsFrame cfg d p) :
    ∃ w, decodeHeader cfg w = .ok d := by
  unfold StartsFrame at h
  split at h
  · exact ⟨_, h.2⟩
  · cases h

/-- The largest object under the default tables is an Extended Tag of the largest synchsafe size (rule R115). -/
theorem assembling_size_le {s : State} (h : Assembling s) (hc : s.cfg = Config.default) :
    s.buf.length + s.need ≤ 268435465 := by
  unfold Assembling at h
  split at h
  · cases h
  · obtain ⟨d, -, hstart, hlen⟩ := h
    obtain ⟨w, hd⟩ := startsFrame_decodes hstart
    have := default_frameLength_le (hc ▸ hd)
    omega
  · omega
  · obtain ⟨-, size, hsize, hlen⟩ := h
    have := declaredSize_lt hsize
    omega

theorem cleared_size {s : State} (h : Cleared s) : s.buf.length + s.need = 0 := by
  obtain ⟨-, -, hbuf, hneed⟩ := h
  simp [hbuf, hneed]

/-- In every state of the invariant the bytes read of an object and those still to come are no more than the largest
object (rules R25, R26). -/
theorem inv_size_le {s : State} (h : Inv s) (hc : s.cfg = Config.default) : s.buf.length + s.need ≤ 268435465 := by
  have cleared (hst : s.st = .fill ∨ s.st = .classify ∨ s.st = .shift ∨ s.st = .eosr) :
      s.buf.length + s.need ≤ 268435465 := by
    have := cleared_size (h.cleared hst)
    omega
  cases hst : s.st with
  | idle =>
    rcases (h.idle hst).2 with hcl | has
    · have := cleared_size hcl
      omega
    · exact assembling_size_le has hc
  | fill => exact cleared (by simp [hst])
  | classify => exact cleared (by simp [hst])
  | shift => exact cleared (by simp [hst])
  | eosr => exact cleared (by simp [hst])
  | id3hdr =>
    obtain ⟨-, -, -, hlen, -⟩ := h.header hst
    omega
  | body => exact assembling_size_le (h.body hst).2 hc
  | done => exact assembling_size_le (h.done hst).2 hc

/-- Settles O15: HD's part by the bounds of the default tables, the registers' part by the size of the largest
object. -/
theorem widthsHoldEveryValue : Obligations.WidthsHoldEveryValue := by
  refine ⟨fun h d hd => ?_, fun s hinv hc => ?_⟩
  · have hlen := default_frameLength_le hd
    obtain ⟨v, l, kbps, padded, hk, hz, hb, hcount, -⟩ := decodeHeader_entries hd
    obtain ⟨hproduct, hrate⟩ := default_bitrate_le v l kbps hk
    refine ⟨by rwa [hb, hcount], by rwa [hb], default_samplingRate_le v _ hz, by omega⟩
  · have := inv_size_le hinv hc
    omega

end Sys2Proof.Machine
end

section
/-!
The port-level handshakes (rules R60 to R62): what SC's step is at an edge without reset, by what the ports offer; which
action is the object transfer; and the obligation, one lemma per channel.
-/

namespace Sys2Proof.Machine

/-! ### The object transfer of SC -/

/-- A step of SC appends nothing to the history, or it appends the offered object and takes one acceptance. -/
theorem StepCase.outs_cases {s t : State} (h : StepCase s t) :
    t.outs = s.outs ∨ ∃ o, offeredObject s = some o ∧ t.outs = s.outs ++ [o] ∧ s.acks = t.acks + 1 := by
  cases h with
  | emitted o k hst hacc ho hack => exact .inr ⟨o, by simp [offeredObject, hst, hacc, ho], rfl, hack⟩
  | reported k hst hack => exact .inr ⟨.endOfStream, by simp [offeredObject, hst], rfl, hack⟩
  | _ => exact .inl rfl

theorem offeredObject_cases {s : State} {o : Obj} (h : offeredObject s = some o) :
    (s.st = .eosr ∧ o = .endOfStream) ∨
      (s.st = .done ∧ accepts s.mode s.kind = true ∧ finishedObject s = some o) := by
  unfold offeredObject at h
  split at h
  · next hst => exact .inl ⟨hst, (Option.some.inj h).symm⟩
  · next hst =>
    split at h
    · next hacc => exact .inr ⟨hst, hacc, h⟩
    · cases h
  · cases h

theorem scStep_offered {s : State} {o : Obj} {k : Nat} (h : offeredObject s = some o) (hack : s.acks = k + 1) :
    scStep s = .next { s with outs := s.outs ++ [o], acks := k, st := .idle } := by
  rcases offeredObject_cases h with ⟨hst, rfl⟩ | ⟨hst, hacc, ho⟩
  · exact scStep_report hst hack
  · exact scStep_emit hst hacc ho hack

theorem scStep_offered_waiting {s : State} {o : Obj} (h : offeredObject s = some o) (hack : s.acks = 0) :
    scStep s = .next s := by
  rcases offeredObject_cases h with ⟨hst, rfl⟩ | ⟨hst, hacc, ho⟩
  · exact scStep_report_waiting hst hack
  · exact scStep_emit_waiting hst hacc ho hack

/-! ### A byte answers the read -/

/-- From a reading state of the invariant, the step that takes a byte answers a next state, and its registers do not
depend on what else the environment offers. -/
theorem scStep_read_byte {s : State} (h : Inv s) (hst : reads s.st = true) (b : Byte) :
    ∃ t : State, t.pos = s.pos + 1 ∧ ∀ src req acks rst,
      scStep (s.withEnv (.byte b :: src) req acks rst) = .next (t.withEnv src req acks rst) := by
  cases hs : s.st <;> simp only [hs, reads, Bool.false_eq_true] at hst
  case fill =>
    exact ⟨{ s with pos := s.pos + 1, w := s.w.write s.n b, n := s.n + 1
                    st := if s.n + 1 = 4 then .classify else .fill },
      rfl, fun _ _ _ _ => scStep_fill_byte hs rfl (h.fill_room hs)⟩
  case shift =>
    exact ⟨{ s with pos := s.pos + 1, w := s.w.shiftIn b, st := .classify },
      rfl, fun _ _ _ _ => scStep_shift_byte hs rfl⟩
  case id3hdr =>
    obtain ⟨-, -, -, hlen, hneed⟩ := h.header hs
    by_cases hlast : s.need = 1
    · have hget (k : Nat) (hk : k < 9) : ∃ x, s.buf[k]? = some x := ⟨_, List.getElem?_eq_getElem (by omega)⟩
      obtain ⟨s6, h6⟩ := hget 6 (by decide)
      obtain ⟨s7, h7⟩ := hget 7 (by decide)
      obtain ⟨s8, h8⟩ := hget 8 (by decide)
      exact ⟨{ s with pos := s.pos + 1, buf := s.buf ++ [b], kind := .id3v2, need := synchsafe s6 s7 s8 b
                      st := if synchsafe s6 s7 s8 b = 0 then .done else .body },
        rfl, fun _ _ _ _ => scStep_header_last hs rfl hlast h6 h7 h8⟩
    · exact ⟨{ s with pos := s.pos + 1, buf := s.buf ++ [b], need := s.need - 1 },
        rfl, fun _ _ _ _ => scStep_header_byte hs rfl (by rw [withEnv_need]; omega)⟩
  case body =>
    exact ⟨{ s with pos := s.pos + 1, buf := s.buf ++ [b], need := s.need - 1
                    st := if s.need = 1 then .done else .body },
      rfl, fun _ _ _ _ => scStep_body_byte hs rfl (h.body hs).1⟩

/-! ### What an edge without reset does to SC -/

section
variable {i : PortIn} {p : PortState}

theorem edge_sc_pending (hr : i.rst = false) (hp : p.pend ≠ []) : (edge i p).sc = p.sc := by
  obtain ⟨b, rest, hp⟩ := List.exists_cons_of_ne_nil hp
  rw [edge_payload hr hp]
  split <;> rfl

theorem step_offer {s : State} (hc : s.cfg.admissible = true) (hr : i.rst = false) :
    step (offer i s) = scStep (sampleReset (offer i s)) :=
  step_running hc (by simp [resetNow, hr])

theorem edge_sc_next {t : State} (hc : p.sc.cfg.admissible = true) (hr : i.rst = false) (hp : p.pend = [])
    (ht : scStep (sampleReset (offer i p.sc)) = .next t) : (edge i p).sc = quiet t := by
  rw [edge_step (.inr hp) ((step_offer hc hr).trans ht)]

theorem edge_regs_hold (hc : p.sc.cfg.admissible = true) (hr : i.rst = false) (hp : p.pend = [])
    (ht : scStep (sampleReset (offer i p.sc)) = .next (sampleReset (offer i p.sc))) :
    (edge i p).sc.regs = p.sc.regs := by
  rw [edge_sc_next hc hr hp ht]
  rfl

/-! ### The request channel -/

theorem pend_nil_of_idle (h : PortInv p) (hst : p.sc.st = .idle) : p.pend = [] :=
  h.quiet (by simp [Streaming, hst])

theorem reqReady_iff (hr : i.rst = false) (hst : p.sc.st = .idle) :
    (outputs i p).reqReady = true ↔ i.reqMode ≠ 0b11#2 := by
  simp [outputs, reqReady, hr, hst]

theorem edge_request_transfers (h : PortInv p) (hr : i.rst = false) (hst : p.sc.st = .idle)
    (hx : i.reqValid = true ∧ (outputs i p).reqReady = true) : (edge i p).sc.st = .fill := by
  obtain ⟨hv, hready⟩ := hx
  rw [reqReady_iff hr hst] at hready
  obtain ⟨m, hm⟩ := Option.ne_none_iff_exists'.1 (mt (modeOf_eq_none_iff _).1 hready)
  have hreq : (sampleReset (offer i p.sc)).req = i.reqMode :: [] := by simp [hv, hready]
  rw [edge_sc_next h.sc.admissible hr (pend_nil_of_idle h hst) (scStep_accept hst hreq hm)]
  rfl

theorem edge_request_waits (h : PortInv p) (hr : i.rst = false) (hst : p.sc.st = .idle)
    (hx : ¬ (i.reqValid = true ∧ (outputs i p).reqReady = true)) : (edge i p).sc.regs = p.sc.regs := by
  rw [reqReady_iff hr hst] at hx
  have hreq : (sampleReset (offer i p.sc)).req = [] := by simpa using hx
  exact edge_regs_hold h.sc.admissible hr (pend_nil_of_idle h hst) (scStep_idle_waiting hst hreq)

/-! ### The source channel -/

theorem srcReq_iff (hr : i.rst = false) : (outputs i p).srcReq = true ↔ reads p.sc.st = true ∧ p.pend = [] := by
  simp [outputs, srcReq, hr]

theorem edge_source_ends (h : PortInv p) (hr : i.rst = false) (hx : (outputs i p).srcReq = true)
    (he : i.srcEnd = true) : (edge i p).sc.st = .eosr ∧ (edge i p).sc.pos = p.sc.pos := by
  obtain ⟨hst, hp⟩ := (srcReq_iff hr).1 hx
  have hsrc : (sampleReset (offer i p.sc)).src = .ended :: [] := by simp [srcAnswers, he]
  rw [edge_sc_next h.sc.admissible hr hp (scStep_ended hst hsrc)]
  exact ⟨rfl, rfl⟩

theorem edge_source_byte (h : PortInv p) (hr : i.rst = false) (hx : (outputs i p).srcReq = true)
    (he : i.srcEnd = false) (hv : i.srcValid = true) :
    (edge i p).sc.pos = p.sc.pos + 1 ∧
      ∃ t, step (p.sc.withEnv [.byte i.srcData] [] 0 []) = .next t ∧ (edge i p).sc.regs = t.regs := by
  obtain ⟨hst, hp⟩ := (srcReq_iff hr).1 hx
  obtain ⟨t, hpos, ht⟩ := scStep_read_byte h.sc hst i.srcData
  have hsrc : srcAnswers i = [.byte i.srcData] := by simp [srcAnswers, he, hv]
  have henv : sampleReset (offer i p.sc) =
      p.sc.withEnv [.byte i.srcData] (offer i p.sc).req (offer i p.sc).acks [] := by
    rw [← hsrc]
    rfl
  rw [edge_sc_next h.sc.admissible hr hp ((congrArg scStep henv).trans (ht [] _ _ []))]
  exact ⟨hpos, _, (step_running (s := p.sc.withEnv _ _ _ []) h.sc.admissible rfl).trans (ht [] [] 0 []), rfl⟩

theorem edge_source_waits (h : PortInv p) (hr : i.rst = false) (hx : (outputs i p).srcReq = true)
    (he : i.srcEnd = false) (hv : i.srcValid = false) : (edge i p).sc.regs = p.sc.regs := by
  obtain ⟨hst, hp⟩ := (srcReq_iff hr).1 hx
  have hsrc : (sampleReset (offer i p.sc)).src = [] := by simp [srcAnswers, he, hv]
  exact edge_regs_hold h.sc.admissible hr hp (scStep_read_waiting hst hsrc)

/-! ### The payload channel -/

theorem edge_payload_transfers (hr : i.rst = false) (hx : (outputs i p).payValid = true) (hready : i.payReady = true) :
    (edge i p).delivered = p.delivered ++ [(outputs i p).payData] ∧
      p.pend = (outputs i p).payData :: (edge i p).pend := by
  cases hp : p.pend with
  | nil => simp [outputs, payValid, hp] at hx
  | cons b rest =>
    rw [edge_payload hr hp]
    simp [outputs, payValid, hr, hp, hready]

theorem edge_payload_waits (hr : i.rst = false) (hx : (outputs i p).payValid = true) (hready : i.payReady = false) :
    (edge i p).delivered = p.delivered ∧ (edge i p).pend = p.pend := by
  cases hp : p.pend with
  | nil => simp [outputs, payValid, hp] at hx
  | cons b rest =>
    rw [edge_payload hr hp]
    simp [hready, hp]

theorem pend_ne_nil_of_payValid (hx : (outputs i p).payValid = true) : p.pend ≠ [] := by
  simp only [outputs, payValid, Bool.and_eq_true] at hx
  simpa using hx.1

/-! ### The object channel -/

theorem objValid_iff (hr : i.rst = false) :
    (outputs i p).objValid = true ↔ (∃ o, offeredObject p.sc = some o) ∧ p.pend = [] := by
  simp [outputs, objValid, hr, Option.isSome_iff_exists]

theorem edge_object_transfers (h : PortInv p) (hr : i.rst = false) (hx : (outputs i p).objValid = true)
    (hready : i.objReady = true) : ∃ o, offeredObject p.sc = some o ∧
      (edge i p).sc = quiet { p.sc with outs := p.sc.outs ++ [o], st := .idle } := by
  obtain ⟨⟨o, ho⟩, hp⟩ := (objValid_iff hr).1 hx
  have hack : (sampleReset (offer i p.sc)).acks = 0 + 1 := by simp [hready]
  refine ⟨o, ho, ?_⟩
  rw [edge_sc_next h.sc.admissible hr hp (scStep_offered (s := sampleReset (offer i p.sc)) ho hack)]
  rfl

theorem edge_object_waits (h : PortInv p) (hr : i.rst = false) (hx : (outputs i p).objValid = true)
    (hready : i.objReady = false) : (edge i p).sc.regs = p.sc.regs := by
  obtain ⟨⟨o, ho⟩, hp⟩ := (objValid_iff hr).1 hx
  have hack : (sampleReset (offer i p.sc)).acks = 0 := by simp [hready]
  exact edge_regs_hold h.sc.admissible hr hp (scStep_offered_waiting (s := sampleReset (offer i p.sc)) ho hack)

/-- The history grows at an edge only where an object transfers. -/
theorem objTransfers_of_edge_outs {o : Obj} (hr : i.rst = false) (ho : (edge i p).sc.outs = p.sc.outs ++ [o]) :
    (outputs i p).objValid = true ∧ i.objReady = true := by
  have unchanged (h : (edge i p).sc.outs = p.sc.outs) : False := by simp [h] at ho
  rcases edge_cases i p with ⟨b, rest, -, hp, -⟩ | ⟨hp, t, ht, he⟩ | ⟨-, -, he⟩
  · exact (unchanged (by rw [edge_sc_pending hr (by simp [hp])])).elim
  · obtain ⟨-, ⟨hreset, -⟩ | ⟨-, hcase⟩⟩ := step_case ht
    · simp [resetNow, hr] at hreset
    rcases hcase.outs_cases with houts | ⟨o', ho', -, hack⟩
    · exact (unchanged (by simpa [he] using houts)).elim
    · refine ⟨(objValid_iff hr).2 ⟨⟨o', ho'⟩, hp.resolve_left (by simp [hr])⟩, ?_⟩
      by_contra hready
      simp [hready] at hack
  · exact (unchanged (by rw [he])).elim

end

/-- Settles O51, channel by channel. -/
theorem portHandshakes : Obligations.PortHandshakes := by
  intro i p h hr
  refine ⟨fun hst => ⟨⟨fun hfill => ?_, edge_request_transfers h hr hst⟩, edge_request_waits h hr hst⟩,
    fun hx => ⟨edge_source_ends h hr hx, edge_source_byte h hr hx, edge_source_waits h hr hx⟩,
    fun hx => ⟨edge_sc_pending hr (pend_ne_nil_of_payValid hx), edge_payload_transfers hr hx, edge_payload_waits hr hx⟩,
    ⟨fun ⟨_, ho⟩ => objTransfers_of_edge_outs hr ho, fun ⟨hx, hready⟩ => ?_⟩, edge_object_waits h hr⟩
  · by_contra hx
    have hregs := congrArg Regs.st (edge_request_waits h hr hst hx)
    simp [State.regs, hfill, hst] at hregs
  · obtain ⟨o, -, he⟩ := edge_object_transfers h hr hx hready
    exact ⟨o, by rw [he]; rfl⟩

end Sys2Proof.Machine
end

section
/-!
The invariant of SC (rules R22 to R34): the forms of `Inv` by control state, how an object grows byte by byte, and that
every action of SC keeps it; so along every run each emitted object is one of rule R33.
-/

namespace Sys2Proof.Machine

/-! ### The default configuration and the least frame length (rule R233) -/

theorem config_default_admissible : Config.default.admissible = true := by decide +kernel

theorem lengthsOk_of_admissible {cfg : Config} (h : cfg.admissible = true) (v : Version) (l : Layer) :
    cfg.lengthsOk v l = true := by
  rw [Config.admissible, Bool.and_eq_true, List.all_eq_true] at h
  exact List.all_eq_true.1 (h.2 v (mem_allVersions v)) l (mem_allLayers l)

/-- Condition 5 of rule R233, for what HD answers: a frame has at least its 4 header bytes. -/
theorem four_le_frameLength {cfg : Config} {h : HeaderWord} {d : FrameDescriptor} (hc : cfg.admissible = true)
    (hd : decodeHeader cfg h = .ok d) : 4 ≤ d.frameLength := by
  obtain ⟨v, l, kbps, padded, hk, hz, hb, hs, hl⟩ := decodeHeader_entries hd
  have hok := lengthsOk_of_admissible hc v l
  simp only [Config.lengthsOk, List.all_eq_true, decide_eq_true_eq] at hok
  rw [hl, hs, hb]
  exact hok kbps hk _ hz padded (by cases padded <;> simp)

/-! ### The first bytes of an object stay while it grows -/

theorem startsFrame_append {cfg : Config} {d : FrameDescriptor} {p : List Byte} (h : StartsFrame cfg d p)
    (q : List Byte) : StartsFrame cfg d (p ++ q) := by
  unfold StartsFrame at h
  split at h
  · exact h
  · cases h

theorem take_three_append {p sig : List Byte} (h : p.take 3 = sig) (hsig : sig.length = 3) (q : List Byte) :
    (p ++ q).take 3 = sig := by
  have hlen : 3 ≤ p.length := by
    rw [← hsig, ← h]
    exact List.length_take_le' 3 p
  rw [List.take_append_of_le_length hlen, h]

theorem startsTag_append {p : List Byte} (h : StartsTag p) (q : List Byte) : StartsTag (p ++ q) :=
  take_three_append h rfl q

theorem startsId3_append {p : List Byte} (h : StartsId3 p) (q : List Byte) : StartsId3 (p ++ q) :=
  take_three_append h rfl q

theorem declaredSize_append {p : List Byte} {size : Nat} (h : declaredSize p = some size) (q : List Byte) :
    declaredSize (p ++ q) = some size := by
  unfold declaredSize at h
  split at h
  · exact h
  · cases h

/-- Header bytes 6 to 9 of an Extended Tag declare its size (rule R157). -/
theorem declaredSize_header {p : List Byte} {s6 s7 s8 : Byte} (hlen : p.length = 9) (h6 : p[6]? = some s6)
    (h7 : p[7]? = some s7) (h8 : p[8]? = some s8) (b : Byte) :
    declaredSize (p ++ [b]) = some (synchsafe s6 s7 s8 b) := by
  match p, hlen with
  | [_, _, _, _, _, _, _, _, _], _ =>
    obtain rfl := Option.some.inj h6
    obtain rfl := Option.some.inj h7
    obtain rfl := Option.some.inj h8
    rfl

/-! ### The first bytes of an object are those of its window -/

theorem startsTag_bytes {w : Window} (h : signature w.word = tagSignature) : StartsTag w.bytes := by
  obtain ⟨h0, h1, h2⟩ := (signature_tag_iff ..).1 h
  simp [StartsTag, Window.bytes, h0, h1, h2]

theorem startsId3_bytes {w : Window} (h : signature w.word = id3Signature) : StartsId3 w.bytes := by
  obtain ⟨h0, h1, h2⟩ := (signature_id3_iff ..).1 h
  simp [StartsId3, Window.bytes, h0, h1, h2]

theorem startsFrame_bytes {cfg : Config} {d : FrameDescriptor} {w : Window} (hs : hasSync w.word = true)
    (hd : decodeHeader cfg w.word = .ok d) : StartsFrame cfg d w.bytes := ⟨hs, hd⟩

/-! ### The object under assembly -/

/-- BODY's byte: one more in the buffer, one less to come. -/
theorem assembling_byte {s t : State} {b : Byte} (h : Assembling s) (hcfg : t.cfg = s.cfg) (hkind : t.kind = s.kind)
    (hdesc : t.desc = s.desc) (hbuf : t.buf = s.buf ++ [b]) (hneed : t.need + 1 = s.need) : Assembling t := by
  have hlen : t.buf.length + t.need = s.buf.length + s.need := by
    simp only [hbuf, List.length_append, List.length_singleton]
    omega
  unfold Assembling at h ⊢
  rw [hkind, hlen, hbuf, hcfg, hdesc]
  split at h
  · cases h
  · obtain ⟨d, hd, hstart, hlen⟩ := h
    exact ⟨d, hd, startsFrame_append hstart _, hlen⟩
  · exact ⟨startsTag_append h.1 _, h.2⟩
  · obtain ⟨hstart, size, hsize, hlen⟩ := h
    exact ⟨startsId3_append hstart _, size, declaredSize_append hsize _, hlen⟩

/-- What DONE emits is an object of rule R33. -/
theorem finishedObject_ok {s : State} {o : Obj} (h : Assembling s) (hneed : s.need = 0)
    (ho : finishedObject s = some o) : ObjectOk s.cfg o := by
  unfold Assembling at h
  rw [hneed, Nat.add_zero] at h
  cases hk : s.kind with
  | none => simp [hk] at h
  | frame =>
    simp only [hk] at h
    obtain ⟨d, hd, hstart, hlen⟩ := h
    simp only [finishedObject, hk, hd, Option.some.injEq] at ho
    exact ho ▸ ⟨hlen, hstart⟩
  | id3v1 =>
    simp only [hk] at h
    simp only [finishedObject, hk, Option.some.injEq] at ho
    exact ho ▸ ⟨h.2, h.1⟩
  | id3v2 =>
    simp only [hk] at h
    simp only [finishedObject, hk, Option.some.injEq] at ho
    exact ho ▸ h

/-! ### The forms of the invariant, by control state

The clauses of `Inv` about the other control states hold because their premise fails; `simp` closes those. -/

theorem need_of_cleared {s : State} (h : Cleared s) : s.need = 0 := by
  obtain ⟨-, -, -, hneed⟩ := h
  exact hneed

section
variable {s : State} (hc : s.cfg.admissible = true) (ho : ∀ o ∈ s.outs, ObjectOk s.cfg o)
include hc ho

theorem inv_idle (hst : s.st = .idle) (hn : s.n ≤ 4) (h : Cleared s ∨ (s.need = 0 ∧ Assembling s)) :
    Inv s := by
  have hidle : s.need = 0 ∧ (Cleared s ∨ Assembling s) := by
    rcases h with hcl | ⟨hneed, has⟩
    · exact ⟨need_of_cleared hcl, .inl hcl⟩
    · exact ⟨hneed, .inr has⟩
  refine ⟨hc, hn, ?_, ?_, ?_, ?_, ?_, ?_, ?_, ?_, ho⟩ <;> simp [hst, hidle]

theorem inv_fill (hst : s.st = .fill) (hn : s.n < 4) (h : Cleared s) : Inv s := by
  refine ⟨hc, hn.le, ?_, ?_, ?_, ?_, ?_, ?_, ?_, ?_, ho⟩ <;> simp [hst, hn, h]

theorem inv_window (hst : s.st = .classify ∨ s.st = .shift) (hn : s.n = 4) (h : Cleared s) : Inv s := by
  rcases hst with hst | hst <;>
    refine ⟨hc, hn.le, ?_, ?_, ?_, ?_, ?_, ?_, ?_, ?_, ho⟩ <;> simp [hst, hn, h]

theorem inv_eosr (hst : s.st = .eosr) (hn : s.n ≤ 4) (h : Cleared s) : Inv s := by
  refine ⟨hc, hn, ?_, ?_, ?_, ?_, ?_, ?_, ?_, ?_, ho⟩ <;> simp [hst, h]

theorem inv_id3hdr (hst : s.st = .id3hdr) (hn : s.n = 4) (hbuf : s.w.bytes <+: s.buf)
    (h : s.kind = .none ∧ s.desc = none ∧ StartsId3 s.buf ∧ s.buf.length + s.need = 10 ∧ 0 < s.need) : Inv s := by
  refine ⟨hc, hn.le, ?_, ?_, ?_, ?_, ?_, ?_, ?_, ?_, ho⟩ <;> simp [hst, hn, hbuf, h]

/-- An object is read in BODY until no byte is needed, and then it is in DONE (rule R162). -/
theorem inv_object (hst : s.st = if s.need = 0 then .done else .body) (hn : s.n = 4) (hbuf : s.w.bytes <+: s.buf)
    (h : Assembling s) : Inv s := by
  by_cases hneed : s.need = 0
  · rw [if_pos hneed] at hst
    refine ⟨hc, hn.le, ?_, ?_, ?_, ?_, ?_, ?_, ?_, ?_, ho⟩ <;> simp [hst, hn, hbuf, h, hneed]
  · rw [if_neg hneed] at hst
    refine ⟨hc, hn.le, ?_, ?_, ?_, ?_, ?_, ?_, ?_, ?_, ho⟩ <;> simp [hst, hn, hbuf, h, Nat.pos_of_ne_zero hneed]

end

/-! ### Every step keeps it -/

theorem Inv.sampleReset {s : State} (h : Inv s) : Inv (sampleReset s) :=
  ⟨h.admissible, h.fill_count, h.fill_room, h.window_full, h.cleared, h.idle, h.buffer_starts, h.header, h.body, h.done,
    h.outs_ok⟩

theorem inv_reset {s : State} (hc : s.cfg.admissible = true) : Inv (resetRegs s) :=
  inv_idle hc (by simp) rfl (by simp) (.inl ⟨rfl, rfl, rfl, rfl⟩)

theorem cleared_clearObject (s : State) : Cleared (clearObject s) := ⟨rfl, rfl, rfl, rfl⟩

theorem outs_append_ok {cfg : Config} {outs : List Obj} {o : Obj} (h : ∀ x ∈ outs, ObjectOk cfg x)
    (ho : ObjectOk cfg o) : ∀ x ∈ outs ++ [o], ObjectOk cfg x := by
  simp only [List.mem_append, List.mem_singleton]
  rintro x (hx | rfl)
  · exact h x hx
  · exact ho

theorem inv_stepCase {s t : State} (h : Inv s) (hs : StepCase s t) : Inv t := by
  have hc := h.admissible
  have ho := h.outs_ok
  cases hs with
  | holds => exact h
  | accepted m c rest hst hreq hm => exact inv_fill hc ho rfl (Nat.zero_lt_succ _) (cleared_clearObject s)
  | tag hst hsig =>
    exact inv_object hc ho rfl (h.window_full (.inl hst)) (List.prefix_refl _) ⟨startsTag_bytes hsig, rfl⟩
  | id3 hst hsig =>
    obtain ⟨hkind, hdesc, -, -⟩ := h.cleared (.inr (.inl hst))
    exact inv_id3hdr hc ho rfl (h.window_full (.inl hst)) (List.prefix_refl _)
      ⟨hkind, hdesc, startsId3_bytes hsig, rfl, Nat.zero_lt_succ _⟩
  | frame d hst hsync hd =>
    have hlen : 4 + (d.frameLength - 4) = d.frameLength := Nat.add_sub_of_le (four_le_frameLength hc hd)
    exact inv_object hc ho rfl (h.window_full (.inl hst)) (List.prefix_refl _)
      ⟨d, rfl, startsFrame_bytes hsync hd, hlen⟩
  | noMatch hst htag hid3 hno =>
    exact inv_window hc ho (.inr rfl) (h.window_full (.inl hst)) (h.cleared (.inr (.inl hst)))
  | ended rest hst hsrc => exact inv_eosr hc ho rfl h.fill_count (cleared_clearObject s)
  | filled b rest hst hsrc hn =>
    have hcl := h.cleared (.inl hst)
    by_cases hfull : s.n + 1 = 4
    · exact inv_window hc ho (.inl (if_pos hfull)) hfull hcl
    · exact inv_fill hc ho (if_neg hfull) (by simp only; omega) hcl
  | shifted b rest hst hsrc =>
    exact inv_window hc ho (.inl rfl) (h.window_full (.inr (.inl hst))) (h.cleared (.inr (.inr (.inl hst))))
  | header b rest hst hsrc hneed =>
    obtain ⟨hkind, hdesc, hid3, hlen, -⟩ := h.header hst
    refine inv_id3hdr hc ho hst (h.window_full (by simp [hst]))
      ((h.buffer_starts (.inl hst)).trans (List.prefix_append ..)) ⟨hkind, hdesc, startsId3_append hid3 _, ?_, ?_⟩
    · simp only [List.length_append, List.length_singleton]
      omega
    · simp only
      omega
  | headerDone b s6 s7 s8 rest hst hsrc hneed h6 h7 h8 =>
    obtain ⟨hkind, hdesc, hid3, hlen, -⟩ := h.header hst
    have hlen9 : s.buf.length = 9 := by omega
    exact inv_object hc ho rfl (h.window_full (by simp [hst]))
      ((h.buffer_starts (.inl hst)).trans (List.prefix_append ..))
      ⟨startsId3_append hid3 _, _, declaredSize_header hlen9 h6 h7 h8 b, by simp [hlen9]⟩
  | bodyByte b rest hst hsrc hneed =>
    refine inv_object hc ho ?_ (h.window_full (by simp [hst]))
      ((h.buffer_starts (.inr (.inl hst))).trans (List.prefix_append ..))
      (assembling_byte (h.body hst).2 rfl rfl rfl rfl (Nat.sub_add_cancel hneed))
    have hlast : s.need = 1 ↔ s.need - 1 = 0 := by omega
    simp only [hlast]
  | emitted o k hst hacc hobj hack =>
    obtain ⟨hneed, has⟩ := h.done hst
    exact inv_idle hc (outs_append_ok ho (finishedObject_ok has hneed hobj)) rfl h.fill_count (.inr ⟨hneed, has⟩)
  | discarded hst hacc => exact inv_fill hc ho rfl (Nat.zero_lt_succ _) (cleared_clearObject s)
  | reported k hst hack =>
    exact inv_idle hc (outs_append_ok ho trivial) rfl h.fill_count (.inl (h.cleared (by simp [hst])))

/-- Settles O39: a reset by the reset values, any other step action by action. -/
theorem stepKeepsInvariant : Obligations.StepKeepsInvariant := by
  intro s t h hs
  obtain ⟨hc, ⟨-, rfl⟩ | ⟨-, hcase⟩⟩ := step_case hs
  · exact inv_reset hc
  · exact inv_stepCase h.sampleReset hcase

/-- Settles O40: the reset values and the default configuration. -/
theorem resetMeetsInvariant : Obligations.ResetMeetsInvariant :=
  inv_reset (s := State.reset) config_default_admissible

/-! ### Along runs -/

/-- What every step keeps, every run keeps. -/
theorem run_induction {P : State → Prop} (hstep : ∀ s t, P s → step s = .next t → P t) {k : Nat} {s t : State}
    (h : P s) (hr : run k s = .next t) : P t := by
  induction k generalizing s with
  | zero => exact Host.Outcome.next.inj hr ▸ h
  | succ k ih =>
    cases hs : step s with
    | next u => exact ih (hstep s u h hs) (run_step hs ▸ hr)
    | fault f => simp [run, hs] at hr
    | refused r => simp [run, hs] at hr

theorem StepCase.cfg_eq {s t : State} (h : StepCase s t) : t.cfg = s.cfg := by
  cases h <;> rfl

/-- No step writes the configuration, reset included (rules R35, R230). -/
theorem step_cfg {s t : State} (h : step s = .next t) : t.cfg = s.cfg := by
  obtain ⟨-, ⟨-, rfl⟩ | ⟨-, hcase⟩⟩ := step_case h
  · rfl
  · exact hcase.cfg_eq

theorem run_keeps_inv {k : Nat} {s t : State} (h : Inv s) (hr : run k s = .next t) : Inv t ∧ t.cfg = s.cfg :=
  run_induction (P := fun u => Inv u ∧ u.cfg = s.cfg)
    (fun u v ⟨hu, hcfg⟩ hs => ⟨stepKeepsInvariant u v hu hs, (step_cfg hs).trans hcfg⟩) ⟨h, rfl⟩ hr

/-- Settles O42: the invariant holds along the run and speaks of every object in the history. -/
theorem emittedObjectsAreWellFormed : Obligations.EmittedObjectsAreWellFormed := by
  intro k s t h hr
  obtain ⟨hinv, hcfg⟩ := run_keeps_inv h hr
  exact hcfg ▸ hinv.outs_ok

end Sys2Proof.Machine
end

section
/-!
Which step writes which register, and which step emits (rules R21 to R28, R34, R35, R58): one frame lemma per register,
each from the inversion of SC's step.
-/

namespace Sys2Proof.Machine

section
variable {s t : State} (h : StepCase s t)
include h

theorem StepCase.w_written (hne : t.w ≠ s.w) : s.st = .fill ∨ s.st = .shift := by
  cases h with
  | filled _ _ hst | shifted _ _ hst => simp [hst]
  | _ => exact absurd rfl hne

theorem StepCase.n_written (hne : t.n ≠ s.n) : s.st = .idle ∨ s.st = .fill ∨ s.st = .done := by
  cases h with
  | accepted _ _ _ hst | filled _ _ hst | discarded hst => simp [hst]
  | _ => exact absurd rfl hne

theorem StepCase.mode_written (hne : t.mode ≠ s.mode) : s.st = .idle := by
  cases h with
  | accepted m c rest hst => exact hst
  | _ => exact absurd rfl hne

theorem StepCase.kind_written (hne : t.kind ≠ s.kind) : s.st = .idle ∨ s.st = .classify ∨ s.st = .done ∨
    t.st = .eosr ∨ (s.st = .id3hdr ∧ t.kind = .id3v2) := by
  cases h with
  | accepted _ _ _ hst | tag hst | frame _ hst | discarded hst | headerDone _ _ _ _ _ hst => simp [hst]
  | ended => simp
  | _ => exact absurd rfl hne

theorem StepCase.desc_written (hne : t.desc ≠ s.desc) : s.st = .idle ∨ s.st = .classify ∨ s.st = .done ∨
    t.st = .eosr := by
  cases h with
  | accepted _ _ _ hst | frame _ hst | discarded hst => simp [hst]
  | ended => simp
  | _ => exact absurd rfl hne

theorem StepCase.buf_written (hne : t.buf ≠ s.buf) : s.st = .idle ∨ s.st = .classify ∨ s.st = .done ∨
    t.st = .eosr ∨ ((s.st = .id3hdr ∨ s.st = .body) ∧ ∃ b, t.buf = s.buf ++ [b]) := by
  cases h with
  | accepted _ _ _ hst | tag hst | id3 hst | frame _ hst | discarded hst => simp [hst]
  | header _ _ hst | headerDone _ _ _ _ _ hst | bodyByte _ _ hst => simp [hst]
  | ended => simp
  | _ => exact absurd rfl hne

theorem StepCase.need_written (hne : t.need ≠ s.need) : s.st = .idle ∨ s.st = .classify ∨ s.st = .done ∨
    t.st = .eosr ∨ (s.st = .body ∧ t.need + 1 = s.need) ∨
      (s.st = .id3hdr ∧ (t.need + 1 = s.need ∨ t.kind = .id3v2)) := by
  cases h with
  | accepted _ _ _ hst | tag hst | id3 hst | frame _ hst | discarded hst | headerDone _ _ _ _ _ hst => simp [hst]
  | header b rest hst hsrc hneed => simp [hst, Nat.sub_add_cancel (Nat.le_of_succ_le hneed)]
  | bodyByte b rest hst hsrc hneed => simp [hst, Nat.sub_add_cancel hneed]
  | ended => simp
  | _ => exact absurd rfl hne

/-- The history and the acceptances change together, on the way to IDLE, which is entered in no other way. -/
theorem StepCase.emission :
    (t.outs = s.outs ∧ t.acks = s.acks ∧ (t.st = .idle → s.st = .idle)) ∨
      ∃ o, t.outs = s.outs ++ [o] ∧ s.acks = t.acks + 1 ∧ (s.st = .done ∨ s.st = .eosr) ∧ t.st = .idle := by
  cases h with
  | emitted o k hst hacc ho hack => exact .inr ⟨o, rfl, hack, .inl hst, rfl⟩
  | reported k hst hack => exact .inr ⟨_, rfl, hack, .inr hst, rfl⟩
  | holds => exact .inl ⟨rfl, rfl, id⟩
  | header b rest hst => exact .inl ⟨rfl, rfl, id⟩
  | frame | filled | headerDone | bodyByte =>
    refine .inl ⟨rfl, rfl, fun hidle => ?_⟩
    simp only at hidle
    split at hidle <;> cases hidle
  | _ => exact .inl ⟨rfl, rfl, fun hidle => nomatch hidle⟩

end

theorem stepCase_of_step {s t : State} (h : step s = .next t) (hr : resetNow s = false) :
    StepCase (sampleReset s) t := by
  obtain ⟨-, ⟨hreset, -⟩ | ⟨-, hcase⟩⟩ := step_case h
  · simp [hr] at hreset
  · exact hcase

/-- Settles O36, from the emission of a step of SC. -/
theorem emissionAppendsOneObject : Obligations.EmissionAppendsOneObject :=
  fun _ _ h hr => (stepCase_of_step h hr).emission

/-- Settles O37, register by register. -/
theorem whoWritesWhichRegister : Obligations.WhoWritesWhichRegister := by
  refine fun s t h => ⟨step_cfg h, fun hr => ?_⟩
  have hcase := stepCase_of_step h hr
  exact ⟨hcase.w_written, hcase.n_written, hcase.mode_written, hcase.kind_written, hcase.desc_written,
    hcase.buf_written, hcase.need_written⟩

end Sys2Proof.Machine
end

section
/-!
Reset values, and what is never observed: runs of two states that agree (rules R36, R38).
-/

namespace Sys2Proof.Machine

/-- Settles O1: both parts are what the definitions of `State.reset` and `resetRegs` say. -/
theorem resetStateHoldsResetValues : Obligations.ResetStateHoldsResetValues :=
  ⟨rfl, rfl, rfl, rfl, rfl, rfl, rfl, rfl, rfl, rfl, resetRegs_cfg⟩

theorem AgreeOutcomes.seen_eq {r r' : Result} (h : AgreeOutcomes r r') : seenOutcome r = seenOutcome r' := by
  cases h with
  | next h => exact congrArg Host.Outcome.next h.1
  | fault f => rfl
  | refused x => rfl

/-- Agreement is kept by runs: step by step, and a stop ends both runs alike. -/
theorem run_agree (k : Nat) {s s' : State} (h : Agree s s') : AgreeOutcomes (run k s) (run k s') := by
  induction k generalizing s s' with
  | zero => exact .next h
  | succ k ih =>
    rcases agreeOutcomes_cases (step_agree h) with ⟨t, t', hs, hs', ht⟩ | ⟨f, hs, hs'⟩ | ⟨x, hs, hs'⟩
    · rw [run_step hs, run_step hs']
      exact ih ht
    · rw [run_succ, run_succ, hs, hs']
      exact .fault f
    · rw [run_succ, run_succ, hs, hs']
      exact .refused x

/-- Settles O47: in IDLE what is seen alike agrees, and runs keep agreement. -/
theorem leftoversAreNeverObserved : Obligations.LeftoversAreNeverObserved :=
  fun k _ _ hst h => (run_agree k (agree_of_seen (.inl hst) h)).seen_eq

end Sys2Proof.Machine
end

section
/-!
HD's result flags and the ports that show what HD answers: the diagnostic ports in CLASSIFY and the descriptor ports of
a frame commit (rules R37, R60, R77).
-/

namespace Sys2Proof.Machine

/-! ### The flags (rules R37, R77) -/

theorem cause_code_injective : Function.Injective Cause.code := by
  intro c c'
  cases c <;> cases c' <;> decide

theorem cause_code_ne_zero (c : Cause) : c.code ≠ 0#3 := by cases c <;> decide

theorem cause_code_ne_seven (c : Cause) : c.code ≠ 7#3 := by cases c <;> decide

section
variable {cfg : Config} {h : HeaderWord}

theorem decOk_iff : decOk cfg h = true ↔ ∃ d, decodeHeader cfg h = .ok d := by
  unfold decOk
  cases decodeHeader cfg h <;> simp [Except.isOk, Except.toBool]

theorem decCause_of_ok {d : FrameDescriptor} (hd : decodeHeader cfg h = .ok d) : decCause cfg h = 0#3 := by
  simp only [decCause, hd]

theorem decCause_of_error {c : Cause} (hd : decodeHeader cfg h = .error c) : decCause cfg h = c.code := by
  simp only [decCause, hd]

theorem decCause_eq_zero_iff : decCause cfg h = 0#3 ↔ decOk cfg h = true := by
  rw [decOk_iff]
  cases hd : decodeHeader cfg h with
  | ok d => simp [decCause_of_ok hd]
  | error c => simp [decCause_of_error hd, cause_code_ne_zero c]

theorem decCause_eq_code_iff (c : Cause) : decCause cfg h = c.code ↔ decodeHeader cfg h = .error c := by
  refine ⟨fun hc => ?_, decCause_of_error⟩
  cases hd : decodeHeader cfg h with
  | ok d => exact absurd (hc.symm.trans (decCause_of_ok hd)) (cause_code_ne_zero c)
  | error c' => rw [cause_code_injective ((decCause_of_error hd).symm.trans hc)]

theorem decCause_ne_seven : decCause cfg h ≠ 7#3 := by
  cases hd : decodeHeader cfg h with
  | ok d => simp [decCause_of_ok hd]
  | error c => exact decCause_of_error hd ▸ cause_code_ne_seven c

end

/-- Settles O13, cause by cause. -/
theorem hdResultFlags : Obligations.HdResultFlags := fun _ _ =>
  ⟨decOk_iff, decCause_eq_zero_iff, decCause_eq_code_iff .badVersion, decCause_eq_code_iff .badLayer,
    decCause_eq_code_iff .badBitrate, decCause_eq_code_iff .badSampleRate, decCause_eq_code_iff .badModeExt,
    decCause_eq_code_iff .badEmphasis, decCause_ne_seven⟩

/-! ### The diagnostic ports (rule R60) -/

theorem dbgPorts_sync {p : PortState} (hst : p.sc.st = .classify) (hs : hasSync p.sc.w.word = true) :
    dbgPorts p = (decOk p.sc.cfg p.sc.w.word, decCause p.sc.cfg p.sc.w.word) :=
  if_pos ⟨hst, hs⟩

/-- Settles O56: the diagnostic ports are the flags, and `hd` on the window's bytes is HD on its word. -/
theorem diagnosticPortsShowHdFlags : Obligations.DiagnosticPortsShowHdFlags := by
  intro i p hst hs
  have hok : (outputs i p).dbgDecOk = decOk p.sc.cfg p.sc.w.word := congrArg Prod.fst (dbgPorts_sync hst hs)
  have hcause : (outputs i p).dbgDecCause = decCause p.sc.cfg p.sc.w.word := congrArg Prod.snd (dbgPorts_sync hst hs)
  simp only [hok, hcause]
  exact ⟨decOk_iff, fun _ => decCause_of_ok, decCause_of_error, decCause_of_error, decCause_of_error,
    decCause_of_error, decCause_of_error, decCause_of_error⟩

/-! ### The header's codes in its bytes (rule R70) -/

/-- A field inside byte `k` of a header word stands at `8 * (3 - k)` bits above its place in the byte. -/
theorem extractLsb'_headerByte (h : HeaderWord) (k : Nat) {j len : Nat} (hj : j + len ≤ 8) :
    (headerByte h k).extractLsb' j len = h.extractLsb' (8 * (3 - k) + j) len := by
  ext m hm
  have hm8 : j + m < 8 := by omega
  simp [headerByte, hm8, Nat.add_assoc]

section
variable (b0 b1 b2 b3 : Byte)

theorem versionCode_headerWord : versionCode (headerWord b0 b1 b2 b3) = b1.extractLsb' 3 2 := by
  rw [← headerByte_headerWord_1 b0 b1 b2 b3, extractLsb'_headerByte _ _ (by decide)]
  simp [versionCode]

theorem layerCode_headerWord : layerCode (headerWord b0 b1 b2 b3) = b1.extractLsb' 1 2 := by
  rw [← headerByte_headerWord_1 b0 b1 b2 b3, extractLsb'_headerByte _ _ (by decide)]
  simp [layerCode]

theorem channel_headerWord : (fieldsOf (headerWord b0 b1 b2 b3)).channel = b3.extractLsb' 6 2 := by
  rw [← headerByte_headerWord_3 b0 b1 b2 b3, extractLsb'_headerByte _ _ (by decide)]
  simp [fieldsOf]

theorem modeExt_headerWord : (fieldsOf (headerWord b0 b1 b2 b3)).modeExt = b3.extractLsb' 4 2 := by
  rw [← headerByte_headerWord_3 b0 b1 b2 b3, extractLsb'_headerByte _ _ (by decide)]
  simp [fieldsOf]

theorem emphasis_headerWord : (fieldsOf (headerWord b0 b1 b2 b3)).emphasis = b3.extractLsb' 0 2 := by
  rw [← headerByte_headerWord_3 b0 b1 b2 b3, extractLsb'_headerByte _ _ (by decide)]
  simp [fieldsOf]

end

/-! ### The frame commit -/

theorem startsFrame_iff {cfg : Config} {d : FrameDescriptor} {p : List Byte} : StartsFrame cfg d p ↔
    ∃ b0 b1 b2 b3 rest, p = b0 :: b1 :: b2 :: b3 :: rest ∧ hasSync (headerWord b0 b1 b2 b3) = true ∧
      hd cfg b0 b1 b2 b3 = .ok d := by
  constructor
  · intro h
    unfold StartsFrame at h
    split at h
    · exact ⟨_, _, _, _, _, rfl, h⟩
    · cases h
  · rintro ⟨b0, b1, b2, b3, rest, rfl, h⟩
    exact h

/-- The largest sample count of rule R32 is 1152. -/
theorem sampleCount_le (v : Version) (l : Layer) : sampleCount v l ≤ 1152 := by
  cases v <;> cases l <;> decide

section
variable {i : PortIn} {p : PortState}

theorem objValid_cases (hv : (outputs i p).objValid = true) :
    (∃ o, offeredObject p.sc = some o) ∧ p.pend = [] ∧ i.rst = false := by
  simpa [outputs, objValid, Option.isSome_iff_exists, and_assoc] using hv

/-- What CON has when a commit is offered is the whole buffer (rule R62). -/
theorem delivered_eq_buf (h : PortInv p) (hv : (outputs i p).objValid = true) (hst : p.sc.st = .done) :
    p.delivered = p.sc.buf := by
  obtain ⟨⟨o, ho⟩, hp, -⟩ := objValid_cases hv
  rcases offeredObject_cases ho with ⟨he, -⟩ | ⟨-, hacc, -⟩
  · simp [hst] at he
  · have hkind : objectKind p.sc = p.sc.kind := by simp [objectKind, hst]
    have := h.streaming ⟨.inr (.inr hst), hkind ▸ hacc⟩
    rwa [hp, List.append_nil] at this

/-- The object ports where a transfer is offered (rule R60). -/
theorem objPorts_offered {o : Obj} (hv : (outputs i p).objValid = true) (ho : offeredObject p.sc = some o) :
    (outputs i p).objKind = o.portKind ∧ (outputs i p).objLen = objLenPort p.edges o.payload.length ∧
      (outputs i p).desc = objDescPorts p.sc.cfg p.edges o := by
  have hports : objPorts (objValid i p) p =
      (o.portKind, objLenPort p.edges o.payload.length, objDescPorts p.sc.cfg p.edges o) := by
    rw [show objValid i p = true from hv]
    simp only [objPorts, ho]
  simp only [outputs, hports, and_self]

end

/-- Settles O55: the offered object is the frame in the buffer, and its header's bytes begin the delivered payload. -/
theorem frameCommitShowsTheDescriptor : Obligations.FrameCommitShowsTheDescriptor := by
  intro i p h hv hst hk
  obtain ⟨⟨o, ho⟩, -, -⟩ := objValid_cases hv
  have hbuf := delivered_eq_buf h hv hst
  obtain ⟨-, has⟩ := h.sc.done hst
  simp only [Assembling, hk] at has
  obtain ⟨d, hdesc, hstart, -⟩ := has
  obtain ⟨b0, b1, b2, b3, rest, hbytes, -, hd⟩ := startsFrame_iff.1 hstart
  have hframe : o = .frame d p.sc.buf := by
    rcases offeredObject_cases ho with ⟨he, -⟩ | ⟨-, -, hfin⟩
    · simp [hst] at he
    · simpa [finishedObject, hk, hdesc] using hfin.symm
  obtain ⟨hkind, -, hports⟩ := objPorts_offered hv ho
  rw [hframe, hbytes] at hports
  have hcount : d.sampleCount < 2 ^ 11 := by
    obtain ⟨v, l, -, -, -, -, -, hc, -⟩ := decodeHeader_entries hd
    have := sampleCount_le v l
    omega
  refine ⟨d, b0, b1, b2, b3, rest, hdesc, hbuf.trans hbytes, hd, by rw [hkind, hframe]; rfl, ?_, ?_⟩
  · simp only [hports, objDescPorts, descPorts, versionCode_headerWord, layerCode_headerWord, channel_headerWord,
      modeExt_headerWord, emphasis_headerWord]
  · rw [hports]
    exact (BitVec.toNat_ofNat ..).trans (Nat.mod_eq_of_lt hcount)

end Sys2Proof.Machine
end

section
/-!
The transactions of a step: a request is taken only in IDLE, the source is read only in the four reading states, and a
state of the invariant always has a step but for the reserved request (rules R51, R59, R151).
-/

namespace Sys2Proof.Machine

/-! ### Requests (rule R59) -/

theorem step_reserved {s : State} {rest : List ReqCode} (hc : s.cfg.admissible = true) (hr : resetNow s = false)
    (hst : s.st = .idle) (hreq : s.req = 0b11#2 :: rest) : step s = .refused .reservedRequestMode :=
  (step_running hc hr).trans (scStep_reserved (s := sampleReset s) hst hreq rfl)

/-- Settles O18: the meaning by definition, and the step by the meaning. -/
theorem reservedRequestIsRefused : Obligations.ReservedRequestIsRefused :=
  ⟨fun _ => rfl, fun _ _ hc hr hst hreq => step_reserved hc hr hst hreq⟩

theorem StepCase.req_written {s t : State} (h : StepCase s t) (hst : s.st ≠ .idle) : t.req = s.req := by
  cases h with
  | accepted m c rest hidle => exact absurd hidle hst
  | _ => rfl

/-- Settles O19: only ACCEPT takes a request, a reset none, and in IDLE the code decides. -/
theorem requestsWaitWhileBusy : Obligations.RequestsWaitWhileBusy := by
  refine ⟨fun s t hst hs => ?_, fun s c rest hc hr hst hreq => ⟨fun m hm => ?_, modeOf_eq_none_iff c, ?_⟩⟩
  · obtain ⟨-, ⟨-, rfl⟩ | ⟨-, hcase⟩⟩ := step_case hs
    · rfl
    · exact hcase.req_written hst
  · exact ⟨_, (step_running hc hr).trans (scStep_accept (s := sampleReset s) hst hreq hm), rfl, rfl, rfl⟩
  · rintro rfl
    exact step_reserved hc hr hst hreq

/-! ### The source (rule R51) -/

theorem reads_iff (c : Ctl) : reads c = true ↔ c = .fill ∨ c = .shift ∨ c = .id3hdr ∨ c = .body := by
  cases c <;> simp [reads]

/-- A step of SC leaves the source alone, or it takes the first answer to its one read; `pos` counts the bytes. -/
theorem StepCase.source {s t : State} (h : StepCase s t) :
    (t.src = s.src ∧ t.pos = s.pos) ∨
      (reads s.st = true ∧
        ((∃ b, s.src = .byte b :: t.src ∧ t.pos = s.pos + 1) ∨ (s.src = .ended :: t.src ∧ t.pos = s.pos))) := by
  cases h with
  | ended rest hst hsrc => exact .inr ⟨hst, .inr ⟨hsrc, rfl⟩⟩
  | filled b rest hst hsrc | shifted b rest hst hsrc | header b rest hst hsrc | headerDone b _ _ _ rest hst hsrc
  | bodyByte b rest hst hsrc => exact .inr ⟨by rw [hst]; rfl, .inl ⟨b, hsrc, rfl⟩⟩
  | _ => exact .inl ⟨rfl, rfl⟩

/-- Settles O35: a reset keeps the source, any other step reads as its action does, and without an answer it holds. -/
theorem sourceIsReadByteByByte : Obligations.SourceIsReadByteByByte := by
  intro s t hs
  obtain ⟨hc, hstep⟩ := step_next hs
  refine ⟨fun hr => ?_, fun hr => ?_, fun hr hst hsrc => ?_⟩
  · rw [step_reset hc hr, Host.Outcome.next.injEq] at hs
    exact hs ▸ rfl
  · rw [← reads_iff]
    exact (stepCase_of_step hs hr).source
  · have hwait := scStep_read_waiting (s := sampleReset s) ((reads_iff _).2 hst) hsrc
    rw [step_running hc hr, hwait, Host.Outcome.next.injEq] at hs
    exact hs.symm

/-! ### No step faults -/

/-- In DONE an object that `mode` accepts is there to be offered: a frame has its descriptor (rule R158). -/
theorem finishedObject_of_assembling {s : State} (h : Assembling s) : ∃ o, finishedObject s = some o := by
  cases hk : s.kind with
  | none => simp [Assembling, hk] at h
  | frame =>
    simp only [Assembling, hk] at h
    obtain ⟨d, hd, -⟩ := h
    exact ⟨.frame d s.buf, by simp only [finishedObject, hk, hd]⟩
  | id3v1 => exact ⟨.legacyTag s.buf, by simp only [finishedObject, hk]⟩
  | id3v2 => exact ⟨.extendedTag s.buf, by simp only [finishedObject, hk]⟩

theorem offeredObject_of_accepts {s : State} (h : Inv s) (hst : s.st = .done) (hacc : accepts s.mode s.kind = true) :
    ∃ o, offeredObject s = some o := by
  obtain ⟨o, ho⟩ := finishedObject_of_assembling (h.done hst).2
  exact ⟨o, by simp [offeredObject, hst, hacc, ho]⟩

/-- CLASSIFY recognises its window whatever the environment offers, and takes nothing from it (rule R153). -/
theorem scStep_classify {s : State} (hst : s.st = .classify) : ∃ t : State, ∀ src req acks rst,
    scStep (s.withEnv src req acks rst) = .next (t.withEnv src req acks rst) := by
  by_cases htag : signature s.w.word = tagSignature
  · exact ⟨{ s with kind := .id3v1, buf := s.w.bytes, need := 124, st := .body }, fun _ _ _ _ => scStep_tag hst htag⟩
  by_cases hid3 : signature s.w.word = id3Signature
  · exact ⟨{ s with buf := s.w.bytes, need := 6, st := .id3hdr }, fun _ _ _ _ => scStep_id3 hst hid3⟩
  cases hs : hasSync s.w.word with
  | false => exact ⟨{ s with st := .shift }, fun _ _ _ _ => scStep_nomatch hst htag hid3 hs⟩
  | true =>
    cases hd : decodeHeader s.cfg s.w.word with
    | error c => exact ⟨{ s with st := .shift }, fun _ _ _ _ => scStep_falseSync hst hs hd⟩
    | ok d =>
      exact ⟨{ s with kind := .frame, desc := some d, buf := s.w.bytes, need := d.frameLength - 4
                      st := if d.frameLength - 4 = 0 then .done else .body },
        fun _ _ _ _ => scStep_frame hst hs hd⟩

theorem scStep_read_total {s : State} (h : Inv s) (hst : reads s.st = true) : ∃ t, scStep s = .next t := by
  match hsrc : s.src with
  | [] => exact ⟨_, scStep_read_waiting hst hsrc⟩
  | .ended :: rest => exact ⟨_, scStep_ended hst hsrc⟩
  | .byte b :: rest =>
    obtain ⟨t, -, ht⟩ := scStep_read_byte h hst b
    have henv : s.withEnv (.byte b :: rest) s.req s.acks s.rst = s := by rw [← hsrc]; rfl
    exact ⟨_, (congrArg scStep henv).symm.trans (ht rest s.req s.acks s.rst)⟩

theorem scStep_offered_total {s : State} {o : Obj} (ho : offeredObject s = some o) : ∃ t, scStep s = .next t := by
  cases hack : s.acks with
  | zero => exact ⟨_, scStep_offered_waiting ho hack⟩
  | succ k => exact ⟨_, scStep_offered ho hack⟩

/-- From a state of the invariant SC has a step, but for the reserved request. -/
theorem scStep_total {s : State} (h : Inv s) : (∃ t, scStep s = .next t) ∨
    (s.st = .idle ∧ (∃ rest, s.req = 0b11#2 :: rest) ∧ scStep s = .refused .reservedRequestMode) := by
  cases hst : s.st with
  | idle =>
    match hreq : s.req with
    | [] => exact .inl ⟨_, scStep_idle_waiting hst hreq⟩
    | c :: rest =>
      cases hm : modeOf c with
      | some m => exact .inl ⟨_, scStep_accept hst hreq hm⟩
      | none =>
        obtain rfl := (modeOf_eq_none_iff c).1 hm
        exact .inr ⟨rfl, ⟨rest, rfl⟩, scStep_reserved hst hreq hm⟩
  | classify =>
    obtain ⟨t, ht⟩ := scStep_classify hst
    exact .inl ⟨_, ht s.src s.req s.acks s.rst⟩
  | fill | shift | id3hdr | body => exact .inl (scStep_read_total h (by rw [hst]; rfl))
  | done =>
    cases hacc : accepts s.mode s.kind with
    | false => exact .inl ⟨_, scStep_discard hst hacc⟩
    | true =>
      obtain ⟨o, ho⟩ := offeredObject_of_accepts h hst hacc
      exact .inl (scStep_offered_total ho)
  | eosr => exact .inl (scStep_offered_total (o := .endOfStream) (by simp [offeredObject, hst]))

/-- The same of a step of MFHD, which takes a reset too. -/
theorem step_total {s : State} (h : Inv s) : (∃ t, step s = .next t) ∨
    (s.st = .idle ∧ (∃ rest, s.req = 0b11#2 :: rest) ∧ step s = .refused .reservedRequestMode) := by
  cases hr : resetNow s with
  | true => exact .inl ⟨_, step_reset h.admissible hr⟩
  | false =>
    rw [step_running h.admissible hr]
    exact scStep_total h.sampleReset

/-- Settles O41: a step of the invariant answers a next state or is the reserved request's refusal. -/
theorem noStepFaults : Obligations.NoStepFaults := by
  intro s h
  rcases step_total h with ⟨t, ht⟩ | ⟨hst, hreq, ht⟩
  · simp [ht]
  · refine ⟨by simp [ht], fun r hr => ?_⟩
    rw [ht, Host.Outcome.refused.injEq] at hr
    exact ⟨hr.symm, hst, hreq⟩

end Sys2Proof.Machine
end

section
/-!
The invariant of the streaming realisation (rule R62): a step that reads an object adds its new bytes to what is pending
where `mode` accepts the object, and any other step leaves CON with nothing, but for what end-of-stream cut off.
-/

namespace Sys2Proof.Machine

/-! ### The invariant of SC does not speak of the environment -/

theorem Inv.withEnv {s : State} (h : Inv s) (src : List SrcAnswer) (req : List ReqCode) (acks : Nat) (rst : List Bool) :
    Inv (s.withEnv src req acks rst) :=
  ⟨h.admissible, h.fill_count, h.fill_room, h.window_full, h.cleared, h.idle, h.buffer_starts, h.header, h.body, h.done,
    h.outs_ok⟩

theorem Inv.quiet {s : State} (h : Inv s) : Inv (quiet s) := h.withEnv [] [] 0 []

theorem Inv.offer {s : State} (h : Inv s) (i : PortIn) : Inv (offer i s) := h.withEnv _ _ _ _

/-! ### An edge at which SC takes its step -/

/-- The realisation after the step of SC to `t` at an edge without reset. -/
def afterStep (p : PortState) (t : State) : PortState where
  sc := quiet t
  pend := streamed p.sc t
  delivered := if transferred p.sc t then [] else p.delivered
  edges := p.edges + 1

theorem edge_afterStep {i : PortIn} {p : PortState} {t : State} (hr : i.rst = false) (hp : p.pend = [])
    (ht : step (offer i p.sc) = .next t) : edge i p = afterStep p t := by
  simp [edge_step (.inr hp) ht, hr, afterStep]

theorem streamed_nil {s t : State} (hbuf : t.buf.length ≤ s.buf.length) : streamed s t = [] := by
  simp [streamed, List.drop_eq_nil_of_le hbuf]

theorem afterStep_delivered {p : PortState} {t : State} (hst : t.st ≠ .idle) :
    (afterStep p t).delivered = p.delivered := by
  simp [afterStep, transferred, hst]

theorem afterStep_delivered_nil {p : PortState} (hd : p.delivered = []) (t : State) :
    (afterStep p t).delivered = [] := by
  simp [afterStep, hd]

/-- After the object transfer CON holds nothing uncommitted (rule R62). -/
theorem afterStep_transferred {p : PortState} {t : State} (hs : p.sc.st = .done ∨ p.sc.st = .eosr) (ht : t.st = .idle) :
    (afterStep p t).delivered = [] := by
  simp [afterStep, transferred, hs, ht]

/-! ### What CON holds between two steps -/

/-- Bytes of an object are in `buf`, and the object is not finished with. -/
def InObject (s : State) : Prop := s.st = .id3hdr ∨ s.st = .body ∨ s.st = .done

theorem InObject.not_idle {s : State} (h : InObject s) : s.st ≠ .idle := by
  rcases h with h | h | h <;> simp [h]

theorem InObject.not_eosr {s : State} (h : InObject s) : s.st ≠ .eosr := by
  rcases h with h | h | h <;> simp [h]

theorem inObject_of_ite {s : State} {c : Prop} [Decidable c] (h : s.st = if c then .done else .body) : InObject s := by
  split at h
  · exact .inr (.inr h)
  · exact .inr (.inl h)

theorem objectKind_id3hdr {s : State} (h : s.st = .id3hdr) : objectKind s = .id3v2 := by simp [objectKind, h]

theorem objectKind_body {s : State} (h : s.st = .body) : objectKind s = s.kind := by simp [objectKind, h]

theorem objectKind_done {s : State} (h : s.st = .done) : objectKind s = s.kind := by simp [objectKind, h]

theorem objectKind_of_ite {s : State} {c : Prop} [Decidable c] (h : s.st = if c then .done else .body) :
    objectKind s = s.kind := by
  split at h
  · exact objectKind_done h
  · exact objectKind_body h

section
variable {p : PortState} (h : PortInv p)
include h

theorem delivered_inObject (hp : p.pend = []) (ho : InObject p.sc) :
    p.delivered = if accepts p.sc.mode (objectKind p.sc) then p.sc.buf else [] := by
  split
  · next hacc => simpa [hp] using h.streaming ⟨ho, hacc⟩
  · next hacc => exact h.uncommitted (fun ⟨_, hs⟩ => hacc hs) ho.not_eosr

theorem delivered_nil (ho : ¬ InObject p.sc) (he : p.sc.st ≠ .eosr) : p.delivered = [] :=
  h.uncommitted (fun ⟨hs, _⟩ => ho hs) he

theorem delivered_nil_of_st {c : Ctl} (hst : p.sc.st = c) (hc : c = .idle ∨ c = .fill ∨ c = .classify ∨ c = .shift) :
    p.delivered = [] := by
  rw [← hst] at hc
  rcases hc with hc | hc | hc | hc <;> exact delivered_nil h (by simp [InObject, hc]) (by simp [hc])

end

/-! ### The three forms of the next state -/

section
variable {p : PortState} {t : State} (ht : Inv t)
include ht

/-- In an object: the buffer grows by bytes that are streamed where the object is accepted. -/
theorem portInv_inObject {q : List Byte} (ho : InObject t) (hbuf : t.buf = p.sc.buf ++ q)
    (hd : p.delivered = if accepts t.mode (objectKind t) then p.sc.buf else []) : PortInv (afterStep p t) where
  sc := ht.quiet
  streaming := fun ⟨_, hacc⟩ => by
    replace hacc : accepts t.mode (objectKind t) = true := hacc
    rw [afterStep_delivered ho.not_idle, hd, if_pos hacc]
    simp [afterStep, streamed, hacc, hbuf]
  quiet := fun hs => if_neg fun hacc => hs ⟨ho, hacc⟩
  uncommitted := fun hs _ =>
    (afterStep_delivered ho.not_idle).trans (hd.trans (if_neg fun hacc => hs ⟨ho, hacc⟩))

/-- Outside an object: nothing is streamed, and CON holds nothing but what end-of-stream cut off. -/
theorem portInv_outside (ho : ¬ InObject t) (hbuf : t.buf.length ≤ p.sc.buf.length)
    (hd : t.st ≠ .eosr → (afterStep p t).delivered = []) : PortInv (afterStep p t) where
  sc := ht.quiet
  streaming := fun ⟨hs, _⟩ => absurd hs ho
  quiet := fun _ => streamed_nil hbuf
  uncommitted := fun _ => hd

variable (h : PortInv p)
include h

/-- An object is recognised in CLASSIFY, where nothing of it has been streamed. -/
theorem portInv_recognised (hst : p.sc.st = .classify) (ho : InObject t) : PortInv (afterStep p t) := by
  obtain ⟨-, -, hbuf, -⟩ := h.sc.cleared (by simp [hst])
  refine portInv_inObject ht (q := t.buf) ho (by simp [hbuf]) ?_
  rw [hbuf, ite_self]
  exact delivered_nil h (by simp [InObject, hst]) (by simp [hst])

/-- An object grows, and is of the same kind for the same request. -/
theorem portInv_grown {q : List Byte} (hp : p.pend = []) (hs : InObject p.sc) (ho : InObject t)
    (hbuf : t.buf = p.sc.buf ++ q) (hmode : t.mode = p.sc.mode) (hkind : objectKind t = objectKind p.sc) :
    PortInv (afterStep p t) := by
  refine portInv_inObject ht ho hbuf ?_
  rw [hmode, hkind]
  exact delivered_inObject h hp hs

end

/-! ### Every edge keeps it -/

/-- The step of SC at an edge without reset, action by action. -/
theorem portInv_stepCase {i : PortIn} {p : PortState} {t : State} (h : PortInv p) (hp : p.pend = [])
    (hs : StepCase (sampleReset (offer i p.sc)) t) : PortInv (afterStep p t) := by
  have ht : Inv t := inv_stepCase (h.sc.offer i).sampleReset hs
  cases hs with
  | holds =>
    by_cases ho : InObject p.sc
    · exact portInv_grown ht h hp ho ho (List.append_nil _).symm rfl rfl
    · exact portInv_outside ht ho le_rfl fun he => afterStep_delivered_nil (delivered_nil h ho he) _
  | accepted m c rest hst =>
    exact portInv_outside ht (by simp [InObject]) (Nat.zero_le _) fun _ =>
      afterStep_delivered_nil (delivered_nil_of_st h hst (by decide)) _
  | tag hst => exact portInv_recognised ht h hst (.inr (.inl rfl))
  | id3 hst => exact portInv_recognised ht h hst (.inl rfl)
  | frame d hst => exact portInv_recognised ht h hst (inObject_of_ite rfl)
  | noMatch hst | shifted b rest hst =>
    exact portInv_outside ht (by simp [InObject]) le_rfl fun _ =>
      afterStep_delivered_nil (delivered_nil_of_st h hst (by decide)) _
  | filled b rest hst =>
    refine portInv_outside ht ?_ le_rfl fun _ => afterStep_delivered_nil (delivered_nil_of_st h hst (by decide)) _
    unfold InObject
    split <;> simp
  | ended rest hst => exact portInv_outside ht (by simp [InObject]) (Nat.zero_le _) fun he => absurd rfl he
  | header b rest hst => exact portInv_grown ht h hp (.inl hst) (.inl hst) rfl rfl rfl
  | headerDone b s6 s7 s8 rest hst =>
    exact portInv_grown ht h hp (.inl hst) (inObject_of_ite rfl) rfl rfl
      ((objectKind_of_ite rfl).trans (objectKind_id3hdr hst).symm)
  | bodyByte b rest hst =>
    exact portInv_grown ht h hp (.inr (.inl hst)) (inObject_of_ite rfl) rfl rfl
      ((objectKind_of_ite rfl).trans (objectKind_body hst).symm)
  | emitted o k hst =>
    exact portInv_outside ht (by simp [InObject]) le_rfl fun _ => afterStep_transferred (.inl hst) rfl
  | discarded hst hacc =>
    have hnone : p.delivered = [] := by
      rw [delivered_inObject h hp (.inr (.inr hst)), objectKind_done (s := p.sc) hst]
      exact if_neg (by simpa using hacc)
    exact portInv_outside ht (by simp [InObject]) (Nat.zero_le _) fun _ => afterStep_delivered_nil hnone _
  | reported k hst =>
    exact portInv_outside ht (by simp [InObject]) le_rfl fun _ => afterStep_transferred (.inr hst) rfl

/-- The reset edge, which abandons what was being streamed (rule R231). -/
theorem edge_reset {i : PortIn} {p : PortState} (hc : p.sc.cfg.admissible = true) (hr : i.rst = true) :
    edge i p = { sc := { State.reset with cfg := p.sc.cfg }, pend := [], delivered := [], edges := p.edges + 1 } := by
  rw [edge_step (.inl hr) (step_reset (s := offer i p.sc) hc (by simp [resetNow, hr]))]
  simp only [hr, if_true, Bool.true_or]
  rfl

/-- While a payload byte is pending an edge delivers it or waits: the two together stay the buffer. -/
theorem portInv_payload {p : PortState} {b : Byte} {rest : List Byte} (h : PortInv p) (hp : p.pend = b :: rest)
    (edges : Nat) : PortInv { p with pend := rest, delivered := p.delivered ++ [b], edges } := by
  have hs : Streaming p.sc := by
    by_contra hs
    simp [h.quiet hs] at hp
  exact ⟨h.sc, fun _ => by simpa [hp] using h.streaming hs, fun hn => absurd hs hn, fun hn => absurd hs hn⟩

theorem PortInv.with_edges {p : PortState} (h : PortInv p) (edges : Nat) : PortInv { p with edges } :=
  ⟨h.sc, h.streaming, h.quiet, h.uncommitted⟩

theorem portInv_idle {s : State} (h : Inv s) (hst : s.st = .idle) (edges : Nat) : PortInv ⟨s, [], [], edges⟩ :=
  ⟨h, fun ⟨ho, _⟩ => absurd hst (InObject.not_idle ho), fun _ => rfl, fun _ _ => rfl⟩

theorem portInv_edge (i : PortIn) {p : PortState} (h : PortInv p) : PortInv (edge i p) := by
  cases hr : i.rst with
  | true =>
    rw [edge_reset h.sc.admissible hr]
    exact portInv_idle (inv_reset h.sc.admissible).quiet rfl _
  | false =>
    rcases edge_cases i p with ⟨b, rest, -, hp, he⟩ | ⟨hp, t, ht, -⟩ | ⟨-, -, he⟩
    · rw [he]
      split
      · exact portInv_payload h hp _
      · exact h.with_edges _
    · replace hp := hp.resolve_left (by simp [hr])
      rw [edge_afterStep hr hp ht]
      exact portInv_stepCase h hp (stepCase_of_step ht (by simp [resetNow, hr]))
    · exact he ▸ h.with_edges _

/-- Settles O48, by what the edge carries: a reset, a payload byte or a step of SC. -/
theorem portEdgeKeepsInvariant : Obligations.PortEdgeKeepsInvariant := fun i _ => portInv_edge i

/-- Settles O49: the reset state of SC, with nothing streamed. -/
theorem portResetMeetsInvariant : Obligations.PortResetMeetsInvariant := portInv_idle resetMeetsInvariant rfl 0

/-- Settles O53: it is the reset edge. -/
theorem resetEdgeAbandonsTheStreamedPayload : Obligations.ResetEdgeAbandonsTheStreamedPayload :=
  fun _ _ => edge_reset

end Sys2Proof.Machine
end

section
/-!
The object ports (rules R60, R62): a commit carries the delivered payload, the abort is the EndOfStream object, and the
descriptor ports hold the values they show.
-/

namespace Sys2Proof.Machine

/-! ### The offered object -/

theorem finishedObject_payload {s : State} {o : Obj} (h : finishedObject s = some o) :
    o.payload = s.buf ∧ o ≠ .endOfStream := by
  unfold finishedObject at h
  split at h
  · exact Option.some.inj h ▸ ⟨rfl, nofun⟩
  · cases h
  · exact Option.some.inj h ▸ ⟨rfl, nofun⟩
  · exact Option.some.inj h ▸ ⟨rfl, nofun⟩

theorem offeredObject_ok {s : State} {o : Obj} (h : Inv s) (ho : offeredObject s = some o) : ObjectOk s.cfg o := by
  rcases offeredObject_cases ho with ⟨-, rfl⟩ | ⟨hst, -, hfin⟩
  · trivial
  · obtain ⟨hneed, has⟩ := h.done hst
    exact finishedObject_ok has hneed hfin

theorem offeredObject_eosr {s : State} (hst : s.st = .eosr) : offeredObject s = some .endOfStream := by
  simp [offeredObject, hst]

theorem objLenPort_toNat {len : Nat} (edges : Nat) (h : len < 2 ^ 29) : (objLenPort edges len).toNat = len := by
  rw [objLenPort, if_pos h, BitVec.toNat_ofNat, Nat.mod_eq_of_lt h]

section
variable {i : PortIn} {p : PortState} (h : PortInv p)
include h

theorem edge_commits {o : Obj} (hv : (outputs i p).objValid = true) (ho : offeredObject p.sc = some o)
    (hready : i.objReady = true) : (edge i p).sc.outs = p.sc.outs ++ [o] ∧ (edge i p).sc.st = .idle := by
  obtain ⟨-, -, hr⟩ := objValid_cases hv
  obtain ⟨o', ho', he⟩ := edge_object_transfers h hr hv hready
  obtain rfl : o = o' := Option.some.inj (ho.symm.trans ho')
  rw [he]
  exact ⟨rfl, rfl⟩

/-- An offered object that CON does not take leaves what CON holds as it is. -/
theorem edge_object_waits_delivered (hv : (outputs i p).objValid = true) (hready : i.objReady = false) :
    (edge i p).delivered = p.delivered := by
  obtain ⟨⟨o, ho⟩, hp, hr⟩ := objValid_cases hv
  have hack : (sampleReset (offer i p.sc)).acks = 0 := by simp [hready]
  have hwait := scStep_offered_waiting (s := sampleReset (offer i p.sc)) ho hack
  rw [edge_afterStep hr hp ((step_offer h.sc.admissible hr).trans hwait)]
  refine afterStep_delivered ?_
  rcases offeredObject_cases ho with ⟨hst, -⟩ | ⟨hst, -⟩ <;> simp [hst]

end

/-! ### Commit and abort -/

/-- Settles O50: the offered object is the finished one, its payload the buffer, and CON holds the whole buffer. -/
theorem commitCarriesTheDeliveredPayload : Obligations.CommitCarriesTheDeliveredPayload := by
  intro i p h hv hst
  obtain ⟨⟨o, ho⟩, -, hr⟩ := objValid_cases hv
  have hbuf := delivered_eq_buf h hv hst
  obtain ⟨hpayload, hne⟩ : o.payload = p.sc.buf ∧ o ≠ .endOfStream := by
    rcases offeredObject_cases ho with ⟨he, -⟩ | ⟨-, -, hfin⟩
    · simp [hst] at he
    · exact finishedObject_payload hfin
  obtain ⟨hkind, hlen, -⟩ := objPorts_offered hv ho
  refine ⟨o, fun hfit => ?_, fun hc => ?_, hkind, hne, hpayload.trans hbuf.symm, offeredObject_ok h.sc ho,
    edge_commits h hv ho, edge_object_waits h hr hv⟩
  · rw [hlen, hpayload, ← hbuf, objLenPort_toNat _ hfit]
  · have := inv_size_le h.sc hc
    rw [hbuf]
    omega

/-- Settles O54: EndOfStream is the offered object, nothing is pending at EOSR, and CON holds nothing back in IDLE. -/
theorem abortIsTheEndOfStreamObject : Obligations.AbortIsTheEndOfStreamObject := by
  intro i p h hr hst
  have ho := offeredObject_eosr hst
  have hp : p.pend = [] := h.quiet fun ⟨hs, _⟩ => InObject.not_eosr hs hst
  have hv : (outputs i p).objValid = true := (objValid_iff hr).2 ⟨⟨_, ho⟩, hp⟩
  obtain ⟨hkind, hlen, -⟩ := objPorts_offered hv ho
  refine ⟨hv, hkind, hlen, by simp [outputs, payValid, hp], by simp [outputs, srcReq, hst, reads],
    by simp [outputs, reqReady, hst], fun hready => ?_, fun hready => ?_⟩
  · obtain ⟨houts, hidle⟩ := edge_commits h hv ho hready
    exact ⟨houts, hidle, delivered_nil_of_st (portInv_edge i h) hidle (.inl rfl)⟩
  · exact ⟨edge_object_waits h hr hv hready, edge_object_waits_delivered h hv hready⟩

/-! ### The widened ports -/

/-- The three widened ports hold the values of `d` (rule R60, assumption 18). -/
def Fits (cfg : Config) (d : DescPorts) : Prop :=
  d.dBitrate < 2 ^ cfg.bitrateWidth ∧ d.dSamplingRate < 2 ^ cfg.samplingRateWidth ∧
    d.dFrameLength < 2 ^ cfg.frameLengthWidth

/-- The widths are made for the values that HD can answer (rules R104, R105, R110). -/
theorem descPorts_fits {cfg : Config} {w : HeaderWord} {d : FrameDescriptor} (hd : decodeHeader cfg w = .ok d)
    (h : HeaderWord) : Fits cfg (descPorts d h) := by
  obtain ⟨v, l, kbps, padded, hk, hz, hb, hs, hl⟩ := decodeHeader_entries hd
  have hrate : d.bitRate ∈ cfg.bitRates := List.mem_flatMap.2 ⟨v, mem_allVersions v, List.mem_flatMap.2
    ⟨l, mem_allLayers l, List.mem_map.2 ⟨kbps, hk, hb.symm⟩⟩⟩
  have hsampling : d.samplingRate ∈ cfg.samplingRates := List.mem_flatMap.2 ⟨v, mem_allVersions v, hz⟩
  have hlength : d.frameLength ∈ cfg.frameLengths := List.mem_flatMap.2 ⟨v, mem_allVersions v, List.mem_flatMap.2
    ⟨l, mem_allLayers l, List.mem_flatMap.2 ⟨kbps, hk, List.mem_flatMap.2 ⟨_, hz, List.mem_map.2
      ⟨padded, by cases padded <;> simp, by rw [hl, hb, hs]⟩⟩⟩⟩⟩
  exact ⟨lt_two_pow_widthFor hrate, lt_two_pow_widthFor hsampling, lt_two_pow_widthFor hlength⟩

theorem objDescPorts_fits {cfg : Config} {o : Obj} (ho : ObjectOk cfg o) (edges : Nat) :
    Fits cfg (objDescPorts cfg edges o) := by
  unfold objDescPorts
  split
  · obtain ⟨-, hstart⟩ := ho
    obtain ⟨w, hd⟩ := startsFrame_decodes hstart
    exact descPorts_fits hd _
  · exact openDescPorts_fit cfg edges

/-- Where no object is offered the descriptor ports are open (I15). -/
theorem desc_not_offered {i : PortIn} {p : PortState} (hv : (outputs i p).objValid = false) :
    (outputs i p).desc = openDescPorts p.sc.cfg p.edges := by
  replace hv : objValid i p = false := hv
  simp only [outputs, objPorts, hv]

theorem outputs_desc_fits (i : PortIn) {p : PortState} (h : Inv p.sc) : Fits p.sc.cfg (outputs i p).desc := by
  cases hv : (outputs i p).objValid with
  | false => exact desc_not_offered hv ▸ openDescPorts_fit _ _
  | true =>
    obtain ⟨⟨o, ho⟩, -, -⟩ := objValid_cases hv
    obtain ⟨-, -, hdesc⟩ := objPorts_offered hv ho
    exact hdesc ▸ objDescPorts_fits (offeredObject_ok h ho) _

/-- Settles O57: offered values are HD's, open ones are cut to the widths; the default widths are computed. -/
theorem portsHoldWhatTheyShow : Obligations.PortsHoldWhatTheyShow :=
  ⟨fun i _ h => outputs_desc_fits i h.sc, by decide +kernel, by decide +kernel, by decide +kernel⟩

end Sys2Proof.Machine
end

section
/-!
The port level makes the transactions of the transaction level (opening of section 6 of 20_memory.md): at an edge where
SC moves, its step takes exactly what transferred and leaves the rest of the environment; elsewhere its registers stand.
-/

namespace Sys2Proof.Machine

/-! ### SC's step on some transactions -/

/-- In `s` SC's step takes the transactions `x` and gives `t`; whatever else the environment is about to do it leaves. -/
def StepsOn (x : Transfers) (s t : State) : Prop := ∀ src req acks rst,
  scStep (s.withEnv (x.src ++ src) (x.req ++ req) (x.acks + acks) rst) = .next (t.withEnv src req acks rst)

section
variable {s : State} {r : List Bool}

theorem stepsOn_request {c : ReqCode} {m : Mode} (hst : s.st = .idle) (hm : modeOf c = some m) :
    ∃ t, StepsOn ⟨[], [c], 0, r⟩ s t :=
  ⟨{ startFill s with mode := m }, fun _ _ acks _ => by rw [Nat.zero_add]; exact scStep_accept hst rfl hm⟩

theorem stepsOn_answer (h : Inv s) (hst : reads s.st = true) (a : SrcAnswer) : ∃ t, StepsOn ⟨[a], [], 0, r⟩ s t := by
  cases a with
  | ended => exact ⟨gotoEos s, fun _ _ acks _ => by rw [Nat.zero_add]; exact scStep_ended hst rfl⟩
  | byte b =>
    obtain ⟨t, -, ht⟩ := scStep_read_byte h hst b
    exact ⟨t, fun src req acks rst => by rw [Nat.zero_add]; exact ht src req acks rst⟩

theorem stepsOn_object {o : Obj} (ho : offeredObject s = some o) : ∃ t, StepsOn ⟨[], [], 1, r⟩ s t :=
  ⟨{ s with outs := s.outs ++ [o], st := .idle }, fun src req acks rst =>
    scStep_offered (s := s.withEnv src req (1 + acks) rst) ho (Nat.add_comm 1 acks)⟩

theorem stepsOn_classify (hst : s.st = .classify) : ∃ t, StepsOn ⟨[], [], 0, r⟩ s t := by
  obtain ⟨t, ht⟩ := scStep_classify hst
  exact ⟨t, fun src req acks rst => by rw [Nat.zero_add]; exact ht src req acks rst⟩

theorem stepsOn_discard (hst : s.st = .done) (hacc : accepts s.mode s.kind = false) : ∃ t, StepsOn ⟨[], [], 0, r⟩ s t :=
  ⟨startFill s, fun _ _ acks _ => by rw [Nat.zero_add]; exact scStep_discard hst hacc⟩

end

/-! ### What transfers, by control state -/

section
variable {i : PortIn} {p : PortState}

theorem srcTransfers_iff : srcTransfers i p = true ↔
    (reads p.sc.st = true ∧ p.pend = [] ∧ i.rst = false) ∧ (i.srcValid = true ∨ i.srcEnd = true) := by
  simp [srcTransfers, outputs, srcReq, and_assoc]

theorem reqTransfers_iff : reqTransfers i p = true ↔
    i.reqValid = true ∧ p.sc.st = .idle ∧ i.rst = false ∧ i.reqMode ≠ 0b11#2 := by
  simp [reqTransfers, outputs, reqReady, and_assoc]

theorem objTransfers_iff : objTransfers i p = true ↔
    ((∃ o, offeredObject p.sc = some o) ∧ p.pend = [] ∧ i.rst = false) ∧ i.objReady = true := by
  simp [objTransfers, outputs, objValid, Option.isSome_iff_exists, and_assoc]

theorem internalAt_iff : internalAt p = true ↔
    p.pend = [] ∧ (p.sc.st = .classify ∨ (p.sc.st = .done ∧ offeredObject p.sc = none)) := by
  simp [internalAt]

theorem moves_iff (hr : i.rst = false) : moves i p = true ↔ srcTransfers i p = true ∨ reqTransfers i p = true ∨
    objTransfers i p = true ∨ internalAt p = true := by
  simp [moves, hr, or_assoc]

/-! The channels exclude each other, by the control state. -/

theorem not_srcTransfers (h : reads p.sc.st = false) : srcTransfers i p = false := by
  rw [Bool.eq_false_iff, Ne, srcTransfers_iff]
  simp [h]

theorem not_reqTransfers (h : p.sc.st ≠ .idle) : reqTransfers i p = false := by
  rw [Bool.eq_false_iff, Ne, reqTransfers_iff]
  simp [h]

theorem not_objTransfers (h : offeredObject p.sc = none) : objTransfers i p = false := by
  rw [Bool.eq_false_iff, Ne, objTransfers_iff]
  simp [h]

theorem offeredObject_none {s : State} (h : s.st ≠ .done ∧ s.st ≠ .eosr) : offeredObject s = none := by
  unfold offeredObject
  split
  · next hst => exact absurd hst h.2
  · next hst => exact absurd hst h.1
  · rfl

theorem transfersAt_answer (hst : reads p.sc.st = true) (hx : srcTransfers i p = true) :
    transfersAt i p = ⟨srcAnswers i, [], 0, (transfersAt i p).rst⟩ := by
  have hreq : p.sc.st ≠ .idle := fun h => by simp [h, reads] at hst
  have hobj : p.sc.st ≠ .done ∧ p.sc.st ≠ .eosr :=
    ⟨fun h => by simp [h, reads] at hst, fun h => by simp [h, reads] at hst⟩
  simp [transfersAt, hx, not_reqTransfers hreq, not_objTransfers (offeredObject_none hobj)]

theorem transfersAt_request (hst : p.sc.st = .idle) (hx : reqTransfers i p = true) :
    transfersAt i p = ⟨[], [i.reqMode], 0, (transfersAt i p).rst⟩ := by
  have hsrc : reads p.sc.st = false := by rw [hst]; rfl
  have hobj : p.sc.st ≠ .done ∧ p.sc.st ≠ .eosr := by simp [hst]
  simp [transfersAt, hx, not_srcTransfers hsrc, not_objTransfers (offeredObject_none hobj)]

theorem transfersAt_object {o : Obj} (ho : offeredObject p.sc = some o) (hx : objTransfers i p = true) :
    transfersAt i p = ⟨[], [], 1, (transfersAt i p).rst⟩ := by
  rcases offeredObject_cases ho with ⟨hst, -⟩ | ⟨hst, -⟩ <;>
    simp [transfersAt, hx, not_srcTransfers (show reads p.sc.st = false by rw [hst]; rfl),
      not_reqTransfers (show p.sc.st ≠ .idle by simp [hst])]

theorem transfersAt_internal (hst : p.sc.st = .classify ∨ p.sc.st = .done) (ho : offeredObject p.sc = none) :
    transfersAt i p = ⟨[], [], 0, (transfersAt i p).rst⟩ := by
  rcases hst with hst | hst <;>
    simp [transfersAt, not_objTransfers ho, not_srcTransfers (show reads p.sc.st = false by rw [hst]; rfl),
      not_reqTransfers (show p.sc.st ≠ .idle by simp [hst])]

theorem transfersAt_reset (hr : i.rst = true) : transfersAt i p = ⟨[], [], 0, [true]⟩ := by
  simp [transfersAt, moves, srcTransfers, reqTransfers, objTransfers, outputs, srcReq, reqReady, objValid, hr]

/-! ### An edge where SC moves -/

/-- What the input ports offer is what transfers, and more that SC does not take. -/
theorem offer_eq_withEnv (i : PortIn) (p : PortState) : ∃ src req acks, sampleReset (offer i p.sc) =
    p.sc.withEnv ((transfersAt i p).src ++ src) ((transfersAt i p).req ++ req) ((transfersAt i p).acks + acks) [] := by
  obtain ⟨src, hsrc⟩ : ∃ src, srcAnswers i = (transfersAt i p).src ++ src := by
    cases hx : srcTransfers i p with
    | true => exact ⟨[], by simp [transfersAt, hx]⟩
    | false => exact ⟨srcAnswers i, by simp [transfersAt, hx]⟩
  obtain ⟨req, hreq⟩ : ∃ req, (offer i p.sc).req = (transfersAt i p).req ++ req := by
    cases hx : reqTransfers i p with
    | true =>
      obtain ⟨hv, -, -, hmode⟩ := reqTransfers_iff.1 hx
      exact ⟨[], by simp [transfersAt, hx, hv, hmode]⟩
    | false => exact ⟨(offer i p.sc).req, by simp [transfersAt, hx]⟩
  obtain ⟨acks, hacks⟩ : ∃ acks, (offer i p.sc).acks = (transfersAt i p).acks + acks := by
    cases hx : objTransfers i p with
    | true =>
      obtain ⟨-, hready⟩ := objTransfers_iff.1 hx
      exact ⟨0, by simp [transfersAt, hx, hready]⟩
    | false => exact ⟨(offer i p.sc).acks, by simp [transfersAt, hx]⟩
  refine ⟨src, req, acks, ?_⟩
  rw [← hsrc, ← hreq, ← hacks]
  rfl

/-- At an edge where SC moves without reset, no payload byte is pending, and its step takes what transfers. -/
theorem stepsOn_transfersAt (h : PortInv p) (hr : i.rst = false) (hm : moves i p = true) :
    p.pend = [] ∧ ∃ t, StepsOn (transfersAt i p) p.sc t := by
  rcases (moves_iff hr).1 hm with hx | hx | hx | hx
  · obtain ⟨⟨hst, hp, -⟩, hv⟩ := srcTransfers_iff.1 hx
    obtain ⟨a, ha⟩ : ∃ a, srcAnswers i = [a] := by
      cases he : i.srcEnd with
      | true => exact ⟨.ended, by simp [srcAnswers, he]⟩
      | false => exact ⟨.byte i.srcData, by simp_all [srcAnswers]⟩
    rw [transfersAt_answer hst hx, ha]
    exact ⟨hp, stepsOn_answer h.sc hst a⟩
  · obtain ⟨-, hst, -, hmode⟩ := reqTransfers_iff.1 hx
    obtain ⟨m, hm⟩ := Option.ne_none_iff_exists'.1 (mt (modeOf_eq_none_iff _).1 hmode)
    rw [transfersAt_request hst hx]
    exact ⟨pend_nil_of_idle h hst, stepsOn_request hst hm⟩
  · obtain ⟨⟨⟨o, ho⟩, hp, -⟩, -⟩ := objTransfers_iff.1 hx
    rw [transfersAt_object ho hx]
    exact ⟨hp, stepsOn_object ho⟩
  · obtain ⟨hp, hst | ⟨hst, ho⟩⟩ := internalAt_iff.1 hx
    · rw [transfersAt_internal (.inl hst) (offeredObject_none (by simp [hst]))]
      exact ⟨hp, stepsOn_classify hst⟩
    · have hacc : accepts p.sc.mode p.sc.kind = false := by
        by_contra hacc
        obtain ⟨o, hsome⟩ := offeredObject_of_accepts h.sc hst (by simpa using hacc)
        simp [ho] at hsome
      rw [transfersAt_internal (.inr hst) ho]
      exact ⟨hp, stepsOn_discard hst hacc⟩

/-- The step of the transaction level on what transfers at an edge, and on whatever comes after, reaches the registers
that the edge reaches and leaves what comes after. -/
theorem step_transfersAt (h : PortInv p) (hm : moves i p = true) (src : List SrcAnswer) (req : List ReqCode)
    (acks : Nat) (rst : List Bool) :
    step (p.sc.withEnv ((transfersAt i p).src ++ src) ((transfersAt i p).req ++ req) ((transfersAt i p).acks + acks)
      (i.rst :: rst)) = .next ((edge i p).sc.withEnv src req acks rst) := by
  have hc := h.sc.admissible
  cases hr : i.rst with
  | true =>
    rw [edge_reset hc hr, transfersAt_reset hr, Nat.zero_add]
    exact step_reset hc rfl
  | false =>
    obtain ⟨hp, t, ht⟩ := stepsOn_transfersAt h hr hm
    obtain ⟨src', req', acks', hoffer⟩ := offer_eq_withEnv i p
    rw [edge_sc_next hc hr hp (hoffer ▸ ht src' req' acks' [])]
    exact (step_running (s := p.sc.withEnv _ _ _ (false :: rst)) hc rfl).trans (ht src req acks rst)

/-! ### An edge where SC stands still -/

/-- Every control state waits for one channel, or SC moves in it by itself. -/
theorem waits_cases (c : Ctl) : c = .idle ∨ reads c = true ∨ c = .classify ∨ c = .done ∨ c = .eosr := by
  cases c <;> simp [reads]

theorem edge_still (h : PortInv p) (hm : moves i p = false) : (edge i p).sc.regs = p.sc.regs := by
  simp only [moves, Bool.or_eq_false_iff] at hm
  obtain ⟨⟨⟨⟨hr, hsrc⟩, hreq⟩, hobj⟩, hint⟩ := hm
  by_cases hp : p.pend = []
  swap
  · rw [edge_sc_pending hr hp]
  have offered {o : Obj} (ho : offeredObject p.sc = some o) : (edge i p).sc.regs = p.sc.regs := by
    have hv := (objValid_iff hr).2 ⟨⟨o, ho⟩, hp⟩
    exact edge_object_waits h hr hv (by simpa [objTransfers, hv] using hobj)
  rcases waits_cases p.sc.st with hst | hst | hst | hst | hst
  · exact edge_request_waits h hr hst (by simpa [reqTransfers] using hreq)
  · have hv := (srcReq_iff hr).2 ⟨hst, hp⟩
    obtain ⟨hvalid, hend⟩ : i.srcValid = false ∧ i.srcEnd = false := by simpa [srcTransfers, hv] using hsrc
    exact edge_source_waits h hr hv hend hvalid
  · simp [internalAt, hp, hst] at hint
  · cases ho : offeredObject p.sc with
    | none => simp [internalAt, hp, hst, ho] at hint
    | some o => exact offered ho
  · exact offered (offeredObject_eosr hst)

end

/-! ### Every run -/

theorem run_transfers (is : List PortIn) {p : PortState} (h : PortInv p) :
    run (transfers is p).rst.length
      (p.sc.withEnv (transfers is p).src (transfers is p).req (transfers is p).acks (transfers is p).rst) =
        .next (quiet (edgesRun is p).sc) := by
  induction is generalizing p with
  | nil => rfl
  | cons i is ih =>
    have hi := ih (portInv_edge i h)
    rw [transfers_cons, edgesRun_cons]
    cases hm : moves i p with
    | true =>
      have hrst : (transfersAt i p).rst = [i.rst] := by simp [transfersAt, hm]
      simp only [Transfers.append, hrst]
      exact (run_step (step_transfersAt h hm _ _ _ _)).trans hi
    | false =>
      rw [withEnv_congr (edge_still h hm)] at hi
      simpa [transfersAt_of_not_moves hm, Transfers.append] using hi

/-- Settles O52: one step of the run for each edge where SC moves. -/
theorem portRunIsATransactionRun : Obligations.PortRunIsATransactionRun :=
  fun is _ h => ⟨_, run_transfers is h, rfl, rfl, rfl, rfl, rfl⟩

end Sys2Proof.Machine
end

section
/-!
HD's six tests and the operands an instruction admits (rules R113, R159): HD answers Ok exactly on a valid header, so
what SC decodes is well-formed, and a well-formed instruction is decoded from its encoding.
-/

namespace Sys2Proof.Machine

/-! ### HD answers Ok exactly on a valid header (rule R113) -/

section
variable {cfg : Config} {v l : BitVec 2} {f : FrameFields} {w : HeaderWord} {i : Instr}

theorem fields_valid_iff : f.valid cfg = true ↔ f.bitrate ≠ 0#4 ∧ f.bitrate ≠ 15#4 ∧ f.rate ≠ 3#2 ∧
    (f.modeExt = 0#2 ∨ cfg.channelMode f.channel = .jointStereo) ∧ f.emphasis ≠ 0b10#2 := by
  simp [FrameFields.valid, and_assoc]

theorem headerValid_iff : headerValid cfg w = true ↔
    versionCode w ≠ 0b01#2 ∧ layerCode w ≠ 0b00#2 ∧ (fieldsOf w).valid cfg = true := by
  simp [headerValid, and_assoc]

/-- The codes that index a bitrate column (rule R104). -/
theorem bitrate_index_iff : ∀ r : BitVec 4, (r ≠ 0#4 ∧ r ≠ 15#4) ↔ r.toNat - 1 < 14 ∧ r.toNat ≠ 0 := by decide

/-- The codes that index a sampling-rate column (rule R105). -/
theorem rate_index_iff : ∀ r : BitVec 2, r ≠ 3#2 ↔ r.toNat < 3 := by decide

/-- The converse of `decodeFields_ok`: six tests that pass make HD answer Ok. -/
theorem decodeFields_of_tests {version : Version} {layer : Layer} {bitRate samplingRate : Nat}
    {channelMode : ChannelMode} {emphasis : BitVec 2} (hv : hdVersion cfg v = .ok version)
    (hl : hdLayer cfg l = .ok layer) (hb : hdBitRate cfg version layer f.bitrate = .ok bitRate)
    (hs : hdSamplingRate cfg version f.rate = .ok samplingRate)
    (hc : hdChannelMode cfg f.channel f.modeExt = .ok channelMode) (he : hdEmphasis f.emphasis = .ok emphasis) :
    ∃ d, decodeFields cfg v l f = .ok d := by
  simp [decodeFields, hv, hl, hb, hs, hc, he, bind, Except.bind, pure, Except.pure]

theorem decodeFields_isOk_iff : (∃ d, decodeFields cfg v l f = .ok d) ↔
    v ≠ 0b01#2 ∧ l ≠ 0b00#2 ∧ f.valid cfg = true := by
  rw [fields_valid_iff]
  constructor
  · rintro ⟨d, hd⟩
    obtain ⟨_, _, _, _, _, _, hv, hl, hb, hs, hc, he, -⟩ := decodeFields_ok hd
    obtain ⟨hi, h0, -⟩ := hdBitRate_ok.1 hb
    obtain ⟨hb0, hb15⟩ := (bitrate_index_iff _).2 ⟨hi, h0⟩
    exact ⟨(hdVersion_ok.1 hv).1, (hdLayer_ok.1 hl).1, hb0, hb15, (rate_index_iff _).2 (hdSamplingRate_ok.1 hs).1,
      (hdChannelMode_ok.1 hc).1, (hdEmphasis_ok.1 he).1⟩
  · rintro ⟨hv, hl, hb0, hb15, hr, hc, he⟩
    obtain ⟨hi, h0⟩ := (bitrate_index_iff _).1 ⟨hb0, hb15⟩
    exact decodeFields_of_tests (hdVersion_ok.2 ⟨hv, rfl⟩) (hdLayer_ok.2 ⟨hl, rfl⟩) (hdBitRate_ok.2 ⟨hi, h0, rfl⟩)
      (hdSamplingRate_ok.2 ⟨(rate_index_iff _).1 hr, rfl⟩) (hdChannelMode_ok.2 ⟨hc, rfl⟩) (hdEmphasis_ok.2 ⟨he, rfl⟩)

theorem decodeHeader_isOk_iff : (∃ d, decodeHeader cfg w = .ok d) ↔ headerValid cfg w = true :=
  decodeFields_isOk_iff.trans headerValid_iff.symm

theorem decodeHeader_isError_iff : (∃ c, decodeHeader cfg w = .error c) ↔ headerValid cfg w = false := by
  rw [← Bool.not_eq_true, ← decodeHeader_isOk_iff]
  cases decodeHeader cfg w <;> simp

/-! ### The frame rows -/

/-- What the row of a pair of codes says of the codes, of its encoding and of the operands it admits. -/
theorem frameRow_some (h : frameRow v l f = some i) : v ≠ 0b01#2 ∧ l ≠ 0b00#2 ∧
    encode i = .window (frameWord v l f) ∧ i.wf cfg = f.valid cfg := by
  have all : ∀ x : BitVec 2, x = 0 ∨ x = 1 ∨ x = 2 ∨ x = 3 := by decide
  rcases all v with rfl | rfl | rfl | rfl <;> rcases all l with rfl | rfl | rfl | rfl <;> cases h <;>
    exact ⟨by decide, by decide, rfl, rfl⟩

/-- A frame row is decoded from its encoding when HD accepts the fields: the decoder reads the same codes again. -/
theorem decodeWindow_frameWord (hi : frameRow v l f = some i) (hf : f.valid cfg = true) :
    decodeWindow cfg (frameWord v l f) = i := by
  obtain ⟨hv, hl, -, -⟩ := frameRow_some (cfg := cfg) hi
  obtain ⟨d, hd⟩ := decodeFields_isOk_iff.2 ⟨hv, hl, hf⟩
  have hrow := decodeSync_ok ((decodeHeader_frameWord cfg v l f).trans hd)
  rw [versionCode_frameWord, layerCode_frameWord, fieldsOf_frameWord, hi] at hrow
  rw [decodeWindow_sync (hasSync_frameWord v l f), ← Option.some.inj hrow]

end

/-! ### Decode and encode agree -/

theorem decode_encode (cfg : Config) {i : Instr} (h : i.wf cfg = true) : decode cfg (encode i) = i := by
  cases i with
  | scan => rfl
  | scanFrame => rfl
  | scanId3v2 => rfl
  | reservedRequest => rfl
  | tag w3 => exact (decodeWindow_tag (signature_append _ _)).trans (by rw [headerByte_append])
  | id3 w3 => exact (decodeWindow_id3 (signature_append _ _)).trans (by rw [headerByte_append])
  | frameMpeg1LIII f => exact decodeWindow_frameWord rfl h
  | frameMpeg1LII f => exact decodeWindow_frameWord rfl h
  | frameMpeg1LI f => exact decodeWindow_frameWord rfl h
  | frameMpeg2LIII f => exact decodeWindow_frameWord rfl h
  | frameMpeg2LII f => exact decodeWindow_frameWord rfl h
  | frameMpeg2LI f => exact decodeWindow_frameWord rfl h
  | frameMpeg25LIII f => exact decodeWindow_frameWord rfl h
  | frameMpeg25LII f => exact decodeWindow_frameWord rfl h
  | frameMpeg25LI f => exact decodeWindow_frameWord rfl h
  | falseSync bits =>
    obtain ⟨c, hc⟩ := decodeHeader_isError_iff.2 (Bool.not_eq_true' _ ▸ h)
    exact (decodeWindow_sync (hasSync_syncWord bits)).trans ((decodeSync_rejected hc).trans (by rw [extract_syncWord]))
  | noMatch w =>
    obtain ⟨⟨htag, hid3⟩, hsync⟩ : (signature w ≠ tagSignature ∧ signature w ≠ id3Signature) ∧ hasSync w = false := by
      simpa [Instr.wf] using h
    exact decodeWindow_nomatch htag hid3 hsync

/-- Settles O5, by the instruction: each row's encoding passes the tests of its own class. -/
theorem decodeEncodeRoundTrip : Obligations.DecodeEncodeRoundTrip := fun cfg _ => decode_encode cfg

/-! ### What is decoded is well-formed -/

theorem decodeRequest_wf (cfg : Config) : ∀ c : ReqCode, (decodeRequest c).wf cfg = true := by
  intro c
  unfold decodeRequest
  split_ifs <;> rfl

theorem decodeSync_wf (cfg : Config) {w : HeaderWord} (hs : hasSync w = true) : (decodeSync cfg w).wf cfg = true := by
  cases hd : decodeHeader cfg w with
  | ok d =>
    obtain ⟨-, -, hf⟩ := headerValid_iff.1 (decodeHeader_isOk_iff.1 ⟨d, hd⟩)
    obtain ⟨-, -, -, hwf⟩ := frameRow_some (cfg := cfg) (decodeSync_ok hd)
    exact hwf.trans hf
  | error c =>
    have hinv := decodeHeader_isError_iff.1 ⟨c, hd⟩
    rw [decodeSync_rejected hd, Instr.wf, syncWord_of_sync hs, hinv, Bool.not_false]

theorem decodeWindow_wf (cfg : Config) (w : HeaderWord) : (decodeWindow cfg w).wf cfg = true := by
  by_cases htag : signature w = tagSignature
  · rw [decodeWindow_tag htag, Instr.wf]
  by_cases hid3 : signature w = id3Signature
  · rw [decodeWindow_id3 hid3, Instr.wf]
  cases hs : hasSync w with
  | true => exact decodeWindow_sync hs ▸ decodeSync_wf cfg hs
  | false => simp [decodeWindow_nomatch htag hid3 hs, Instr.wf, htag, hid3, hs]

/-- Settles O6, by the class of the window. -/
theorem decodedInstructionsAreWellFormed : Obligations.DecodedInstructionsAreWellFormed := by
  intro cfg e
  cases e with
  | request c => exact decodeRequest_wf cfg c
  | window w => exact decodeWindow_wf cfg w

end Sys2Proof.Machine
end

section
/-!
The class of a window (rule R80): the well-formed instruction that the window encodes, and so what the window's bytes
say of it, class by class.
-/

namespace Sys2Proof.Machine

/-- A window's class is the one well-formed instruction that it encodes. -/
theorem decodeWindow_eq_iff {cfg : Config} {w : HeaderWord} {i : Instr} :
    decodeWindow cfg w = i ↔ i.wf cfg = true ∧ encode i = .window w := by
  constructor
  · rintro rfl
    exact ⟨decodeWindow_wf cfg w, encode_decodeWindow cfg w⟩
  · rintro ⟨hwf, he⟩
    have h := decode_encode cfg hwf
    rwa [he] at h

theorem append_headerByte_eq_iff {g : BitVec 24} {w : HeaderWord} : g ++ headerByte w 3 = w ↔ signature w = g := by
  constructor
  · intro h
    rw [← h, signature_append]
  · rintro rfl
    exact signature_append_byte w

theorem syncWord_eq_iff {w : HeaderWord} : syncWord (w.extractLsb' 0 21) = w ↔ hasSync w = true := by
  refine ⟨fun h => ?_, syncWord_of_sync⟩
  rw [← h, hasSync_syncWord]

section
variable {cfg : Config} {w : HeaderWord}

theorem decodeWindow_eq_tag_iff : decodeWindow cfg w = .tag (headerByte w 3) ↔ signature w = tagSignature := by
  simp [decodeWindow_eq_iff, Instr.wf, encode, append_headerByte_eq_iff]

theorem decodeWindow_eq_id3_iff : decodeWindow cfg w = .id3 (headerByte w 3) ↔ signature w = id3Signature := by
  simp [decodeWindow_eq_iff, Instr.wf, encode, append_headerByte_eq_iff]

/-- A frame row is decoded exactly from a window with sync that HD accepts (rule R158). -/
theorem frameRow_eq_decodeWindow_iff :
    frameRow (versionCode w) (layerCode w) (fieldsOf w) = some (decodeWindow cfg w) ↔
      hasSync w = true ∧ ∃ d, decodeHeader cfg w = .ok d := by
  constructor
  · intro h
    obtain ⟨hv, hl, he, hwf⟩ := frameRow_some (cfg := cfg) h
    rw [encode_decodeWindow, Encoded.window.injEq] at he
    rw [decodeWindow_wf] at hwf
    exact ⟨he ▸ hasSync_frameWord _ _ _, decodeHeader_isOk_iff.2 (headerValid_iff.2 ⟨hv, hl, hwf.symm⟩)⟩
  · rintro ⟨hs, d, hd⟩
    rw [decodeWindow_sync hs]
    exact decodeSync_ok hd

/-- A false sync is decoded exactly from a window with sync that HD rejects (rule R159). -/
theorem decodeWindow_eq_falseSync_iff :
    decodeWindow cfg w = .falseSync (w.extractLsb' 0 21) ↔ hasSync w = true ∧ ∃ c, decodeHeader cfg w = .error c := by
  rw [decodeWindow_eq_iff, encode, Encoded.window.injEq, syncWord_eq_iff, and_comm, decodeHeader_isError_iff]
  refine and_congr_right fun hs => ?_
  rw [Instr.wf, syncWord_of_sync hs, Bool.not_eq_true']

theorem decodeWindow_eq_noMatch_iff : decodeWindow cfg w = .noMatch w ↔
    signature w ≠ tagSignature ∧ signature w ≠ id3Signature ∧ ¬ hasSync w = true := by
  simp [decodeWindow_eq_iff, Instr.wf, encode, and_assoc]

end

/-- Settles O7, class by class, the signatures and the sync read off the window's bytes. -/
theorem windowClassByItsBytes : Obligations.WindowClassByItsBytes := by
  intro cfg b0 b1 b2 b3
  have hbyte := headerByte_headerWord_3 b0 b1 b2 b3
  have htag := signature_tag_iff b0 b1 b2 b3
  have hid3 := signature_id3_iff b0 b1 b2 b3
  have hsync := hasSync_iff b0 b1 b2 b3
  refine ⟨?_, ?_, ?_, ?_, ?_⟩
  · rw [← htag, ← decodeWindow_eq_tag_iff, hbyte]
  · rw [← hid3, ← decodeWindow_eq_id3_iff, hbyte]
  · rw [← hsync]
    exact frameRow_eq_decodeWindow_iff
  · rw [← hsync]
    exact decodeWindow_eq_falseSync_iff
  · rw [← htag, ← hid3, ← hsync]
    exact decodeWindow_eq_noMatch_iff

/-- Settles O4: each word is a literal, and the decoder computes its class. -/
theorem decodesWrittenOutWords : Obligations.DecodesWrittenOutWords := by
  unfold Obligations.DecodesWrittenOutWords
  decide

end Sys2Proof.Machine
end

section
/-!
Fields and bytes as numbers: where each header field stands in the bytes and in the word's value (rule R70), and the
synchsafe size as the concatenation of four times seven bits (rules R79, R157).
-/

namespace Sys2Proof.Machine

/-- Concatenation adds at the places above the lower part. -/
theorem toNat_append_eq_add {m n : Nat} (x : BitVec m) (y : BitVec n) :
    (x ++ y).toNat = x.toNat * 2 ^ n + y.toNat := by
  rw [BitVec.toNat_append, ← Nat.shiftLeft_add_eq_or_of_lt y.isLt, Nat.shiftLeft_eq]

/-! ### The header fields (rule R70) -/

theorem hasSync_headerWord_iff (b0 b1 b2 b3 : Byte) :
    hasSync (headerWord b0 b1 b2 b3) = true ↔ b0 = 0xFF#8 ∧ b1.extractLsb' 5 3 = 0b111#3 := by
  have top : ∀ b : Byte, b &&& 0xE0#8 = 0xE0#8 ↔ b.extractLsb' 5 3 = 0b111#3 := by decide
  rw [hasSync_iff, top]

/-- The fields below the version and layer codes are fields of bytes 1, 2 and 3. -/
theorem fieldsOf_headerWord (b0 b1 b2 b3 : Byte) : fieldsOf (headerWord b0 b1 b2 b3) =
    { crc := b1.extractLsb' 0 1, bitrate := b2.extractLsb' 4 4, rate := b2.extractLsb' 2 2
      padding := b2.extractLsb' 1 1, priv := b2.extractLsb' 0 1, channel := b3.extractLsb' 6 2
      modeExt := b3.extractLsb' 4 2, copyright := b3.extractLsb' 3 1, original := b3.extractLsb' 2 1
      emphasis := b3.extractLsb' 0 2 } := by
  have field {k : Nat} {b : Byte} (hb : headerByte (headerWord b0 b1 b2 b3) k = b) (j len : Nat) (hj : j + len ≤ 8) :
      b.extractLsb' j len = (headerWord b0 b1 b2 b3).extractLsb' (8 * (3 - k) + j) len :=
    hb ▸ extractLsb'_headerByte _ k hj
  simp [fieldsOf, field (headerByte_headerWord_1 ..), field (headerByte_headerWord_2 ..),
    field (headerByte_headerWord_3 ..)]

/-- The value of a put-together header: each part at its place. -/
theorem frameWord_toNat (v l : BitVec 2) (f : FrameFields) : (frameWord v l f).toNat =
    0b11111111111 * 2 ^ 21 + v.toNat * 2 ^ 19 + l.toNat * 2 ^ 17 + f.crc.toNat * 2 ^ 16 + f.bitrate.toNat * 2 ^ 12
      + f.rate.toNat * 2 ^ 10 + f.padding.toNat * 2 ^ 9 + f.priv.toNat * 2 ^ 8 + f.channel.toNat * 2 ^ 6
      + f.modeExt.toNat * 2 ^ 4 + f.copyright.toNat * 2 ^ 3 + f.original.toNat * 2 ^ 2 + f.emphasis.toNat := by
  simp only [frameWord, toNat_append_eq_add, BitVec.toNat_ofNat]
  omega

/-- Settles O8: a field's bits lie in one byte, and a header with sync is its parts put together. -/
theorem headerFieldPositions : Obligations.HeaderFieldPositions := by
  refine ⟨fun b0 b1 b2 b3 => ⟨hasSync_headerWord_iff .., versionCode_headerWord .., layerCode_headerWord ..,
    fieldsOf_headerWord ..⟩, fun h hs => ?_⟩
  rw [← frameWord_toNat, frameWord_of_sync hs]

/-! ### The synchsafe size (rules R79, R157) -/

theorem synchsafe_eq_sum (s6 s7 s8 s9 : Byte) : synchsafe s6 s7 s8 s9 =
    s6.toNat % 128 * 2 ^ 21 + s7.toNat % 128 * 2 ^ 14 + s8.toNat % 128 * 2 ^ 7 + s9.toNat % 128 := by
  have low (b : Byte) : (b &&& 0x7F#8).toNat = b.toNat % 128 := Nat.and_two_pow_sub_one_eq_mod b.toNat 7
  simp only [synchsafe, low]
  omega

theorem synchsafe_eq_append (s6 s7 s8 s9 : Byte) : synchsafe s6 s7 s8 s9 =
    (s6.extractLsb' 0 7 ++ s7.extractLsb' 0 7 ++ s8.extractLsb' 0 7 ++ s9.extractLsb' 0 7 : BitVec 28).toNat := by
  have low (b : Byte) : (b.extractLsb' 0 7).toNat = b.toNat % 128 := by simp
  refine (synchsafe_eq_sum s6 s7 s8 s9).trans (Eq.symm ((toNat_append_eq_add _ _).trans ?_))
  simp only [toNat_append_eq_add, low]
  omega

/-- Settles O16: both forms are the same sum, and 28 bits bound it. -/
theorem synchsafeConcatenatesSevenBits : Obligations.SynchsafeConcatenatesSevenBits := by
  intro s6 s7 s8 s9
  have hlt := synchsafe_lt s6 s7 s8 s9
  exact ⟨synchsafe_eq_append .., synchsafe_eq_sum .., by omega, by decide⟩

end Sys2Proof.Machine
end

section
/-!
HD as a whole (rules R102 to R114): the first failing test gives the cause, the descriptor in the rules' own terms where
none fails, the frame lengths of the default tables, and the header bits that HD reads.
-/

namespace Sys2Proof.Machine

/-! ### The look-ups of the rules, written out -/

theorem family_eq (v : Version) : family v = if v = .mpeg1 then .F1 else .F2 := by cases v <;> rfl

theorem sampleCount_eq (v : Version) (l : Layer) : sampleCount v l =
    if l = .I then 384 else if l = .II then 1152 else if v = .mpeg1 then 1152 else 576 := by
  cases v <;> cases l <;> rfl

theorem crcProtected_eq (cfg : Config) (p : BitVec 1) : cfg.crcProtected p =
    if cfg.crcPolarity = .zeroMeansProtected then decide (p = 0#1) else decide (p = 1#1) := by
  unfold Config.crcProtected
  cases cfg.crcPolarity <;> rfl

theorem paddingBytes_bit (l : Layer) : ∀ p : BitVec 1,
    paddingBytes (p == 1#1) l = if p = 0#1 then 0 else if l = .I then 4 else 1 := by
  cases l <;> decide

/-! ### The first failing test (rule R111) -/

section
variable {cfg : Config} {v l : BitVec 2} {f : FrameFields} {c : Cause} {d : FrameDescriptor}

/-- The cause of the first of HD's six tests that fails. -/
def firstFailing (cfg : Config) (v l : BitVec 2) (f : FrameFields) : Option Cause :=
  if v = 0b01#2 then some .badVersion
  else if l = 0b00#2 then some .badLayer
  else if f.bitrate = 0#4 ∨ f.bitrate = 15#4 then some .badBitrate
  else if f.rate = 3#2 then some .badSampleRate
  else if f.modeExt ≠ 0b00#2 ∧ cfg.channelMode f.channel ≠ .jointStereo then some .badModeExt
  else if f.emphasis = 0b10#2 then some .badEmphasis
  else none

/-- A test in front of others: where it fails its cause is the answer, where it passes the others decide. -/
theorem bind_error_of_test {α β : Type} {p : Prop} [Decidable p] {c' : Cause} {rest : Option Cause}
    {x : Except Cause α} {k : α → Except Cause β} (h : (if p then some c' else rest) = some c)
    (fails : p → x = .error c') (passes : ¬ p → ∃ a, x = .ok a) (others : ∀ a, rest = some c → k a = .error c) :
    x >>= k = .error c := by
  split_ifs at h with hp
  · obtain rfl := Option.some.inj h
    rw [fails hp]
    rfl
  · obtain ⟨a, ha⟩ := passes hp
    rw [ha]
    exact others a h

theorem hdBitRate_error {version : Version} {layer : Layer} {r : BitVec 4} (h : r = 0#4 ∨ r = 15#4) :
    hdBitRate cfg version layer r = .error .badBitrate := by
  rcases h with rfl | rfl <;> rfl

theorem hdSamplingRate_error {version : Version} {r : BitVec 2} (h : r = 3#2) :
    hdSamplingRate cfg version r = .error .badSampleRate := by
  rw [h]
  rfl

/-- HD takes its tests in the order of `firstFailing`, each after those before it have passed. -/
theorem decodeFields_of_firstFailing (h : firstFailing cfg v l f = some c) : decodeFields cfg v l f = .error c := by
  refine bind_error_of_test h (fun hv => if_pos hv) (fun hv => ⟨_, if_neg hv⟩) fun version h => ?_
  refine bind_error_of_test h (fun hl => if_pos hl) (fun hl => ⟨_, if_neg hl⟩) fun layer h => ?_
  refine bind_error_of_test h hdBitRate_error (fun hb => ?_) fun bitRate h => ?_
  · obtain ⟨hi, h0⟩ := (bitrate_index_iff _).1 (not_or.1 hb)
    exact ⟨_, hdBitRate_ok.2 ⟨hi, h0, rfl⟩⟩
  refine bind_error_of_test h hdSamplingRate_error
    (fun hs => ⟨_, hdSamplingRate_ok.2 ⟨(rate_index_iff _).1 hs, rfl⟩⟩) fun samplingRate h => ?_
  refine bind_error_of_test h (fun hm => if_pos hm) (fun hm => ⟨_, if_neg hm⟩) fun channelMode h => ?_
  exact bind_error_of_test h (fun he => if_pos he) (fun he => ⟨_, if_neg he⟩) fun _ h => nomatch h

/-! ### The descriptor (rules R102 to R110) -/

/-- What HD answers where no test fails, its two table entries found by the header's indexes. -/
theorem decodeFields_descriptor (h : decodeFields cfg v l f = .ok d) : ∃ kbps hz,
    (cfg.bitrateColumn (family (cfg.version v)) (cfg.layer l))[f.bitrate.toNat - 1]? = some kbps ∧
    (cfg.sampleRateColumn (cfg.version v))[f.rate.toNat]? = some hz ∧
    d = { version := cfg.version v, layer := cfg.layer l, protectionBit := f.crc
          crcProtected := cfg.crcProtected f.crc, bitRate := kbps * 1000, samplingRate := hz
          padded := decide (f.padding = 1#1), privateBit := f.priv, channelMode := cfg.channelMode f.channel
          modeExtension := f.modeExt, copyright := decide (f.copyright = 1#1)
          original := decide (f.original = 1#1), emphasis := f.emphasis
          sampleCount := sampleCount (cfg.version v) (cfg.layer l)
          frameLength := frameLength (sampleCount (cfg.version v) (cfg.layer l)) (kbps * 1000) hz
            (paddingBytes (f.padding == 1#1) (cfg.layer l)) } := by
  obtain ⟨version, layer, bitRate, hz, channelMode, emphasis, hv, hl, hb, hs, hm, he, rfl⟩ := decodeFields_ok h
  obtain ⟨-, rfl⟩ := hdVersion_ok.1 hv
  obtain ⟨-, rfl⟩ := hdLayer_ok.1 hl
  obtain ⟨hi, -, rfl⟩ := hdBitRate_ok.1 hb
  obtain ⟨hj, rfl⟩ := hdSamplingRate_ok.1 hs
  obtain ⟨-, rfl⟩ := hdChannelMode_ok.1 hm
  obtain ⟨-, rfl⟩ := hdEmphasis_ok.1 he
  exact ⟨_, _, Vector.getElem?_eq_getElem hi, Vector.getElem?_eq_getElem hj, rfl⟩

end

/-- Settles O10: HD answers Ok exactly on a valid header, and its numbers are the descriptor's. -/
theorem hdValidExactlyOnSixTests : Obligations.HdValidExactlyOnSixTests := by
  intro cfg h
  refine ⟨by rw [decodeHeader_isOk_iff, headerValid_iff, fields_valid_iff], fun d hd => ?_⟩
  obtain ⟨kbps, hz, hk, hr, rfl⟩ := decodeFields_descriptor hd
  refine ⟨kbps, hz, hk, hr, rfl, rfl, sampleCount_eq .., ?_⟩
  simp only [frameLength, sampleCount_eq, paddingBytes_bit]

/-- Settles O11: the six rejections are the values of `firstFailing`; where it has none, HD's tests pass and the
descriptor is written out. -/
theorem hdWholeDecode : Obligations.HdWholeDecode := by
  intro cfg b0 b1 b2 b3 h V L f badExt samples
  refine ⟨fun hV => decodeFields_of_firstFailing ?_, fun hV hL => decodeFields_of_firstFailing ?_,
    fun hV hL hR => decodeFields_of_firstFailing ?_, fun hV hL hR hF => decodeFields_of_firstFailing ?_,
    fun hV hL hR hF hE => decodeFields_of_firstFailing ?_, fun hV hL hR hF hE hH => decodeFields_of_firstFailing ?_,
    fun hV hL hR hF hE hH => ?_⟩
  · rw [firstFailing, if_pos hV]
  · rw [firstFailing, if_neg hV, if_pos hL]
  · rw [firstFailing, if_neg hV, if_neg hL, if_pos hR]
  · rw [firstFailing, if_neg hV, if_neg hL, if_neg hR, if_pos hF]
  · rw [firstFailing, if_neg hV, if_neg hL, if_neg hR, if_neg hF, if_pos hE]
  · rw [firstFailing, if_neg hV, if_neg hL, if_neg hR, if_neg hF, if_neg hE, if_pos hH]
  obtain ⟨hR0, hR15⟩ := not_or.1 hR
  have hvalid := fields_valid_iff.2 ⟨hR0, hR15, hF, or_iff_not_and_not.2 hE, hH⟩
  obtain ⟨d, hd⟩ := decodeFields_isOk_iff.2 ⟨hV, hL, hvalid⟩
  obtain ⟨kbps, hz, hk, hr, rfl⟩ := decodeFields_descriptor hd
  refine ⟨kbps, hz, family_eq _ ▸ hk, hr, hd.trans ?_⟩
  simp only [frameLength, sampleCount_eq, crcProtected_eq, paddingBytes_bit, samples]

/-! ### The bits that HD reads (rule R114) -/

theorem extractLsb'_eq_of_low {n m j len : Nat} {x y : BitVec n} (h : x.extractLsb' 0 m = y.extractLsb' 0 m)
    (hj : j + len ≤ m) : x.extractLsb' j len = y.extractLsb' j len := by
  have low (z : BitVec n) : (z.extractLsb' 0 m).extractLsb' j len = z.extractLsb' j len := by
    ext i hi
    have : j + i < m := by omega
    simp [this]
  rw [← low x, h, low]

/-- Settles O12: every code and field that HD reads lies in bits 20 to 0. -/
theorem hdIgnoresTheSyncBits : Obligations.HdIgnoresTheSyncBits := by
  refine ⟨fun cfg h h' hlow => ?_, ⟨_, rfl, rfl⟩⟩
  have field (j len : Nat) (hj : j + len ≤ 21) : h.extractLsb' j len = h'.extractLsb' j len :=
    extractLsb'_eq_of_low hlow hj
  simp [decodeHeader, versionCode, layerCode, fieldsOf, field]

/-! ### The frame lengths (rule R116; assumption 1) -/

/-- The least quotient is that of MPEG-2 Layer III at 8 kbps and 24000 Hz; the longest frame is in Layer II, whose
padding is one byte. -/
theorem default_frameLength_bounds (v : Version) (l : Layer) (padded : Bool) :
    ∀ kbps ∈ (Config.default.bitrateColumn (family v) l).toList, ∀ hz ∈ (Config.default.sampleRateColumn v).toList,
      24 ≤ frameLength (sampleCount v l) (kbps * 1000) hz (paddingBytes padded l) ∧
        frameLength (sampleCount v l) (kbps * 1000) hz (paddingBytes padded l) ≤ 2881 := by
  cases v <;> cases l <;> cases padded <;> decide

/-- Settles O14: the default bounds by the tables' entries, the two witnesses by computation, the least length of the
other configurations by condition 5 of rule R233. -/
theorem frameLengthRange : Obligations.FrameLengthRange := by
  refine ⟨fun h d hd => ?_, ⟨_, rfl, rfl⟩, ⟨_, rfl, rfl⟩, fun cfg h d => four_le_frameLength⟩
  obtain ⟨v, l, kbps, padded, hk, hz, hb, hc, hl⟩ := decodeHeader_entries hd
  rw [hl, hc, hb]
  exact default_frameLength_bounds v l padded kbps hk _ hz

end Sys2Proof.Machine
end

section
/-!
The meaning of each instruction where SC decodes it (rules R151 to R160): `exec` of the decoded instruction is SC's
step, so what each instruction does is read off the step's own lemmas.
-/

namespace Sys2Proof.Machine

/-! ### Requests (rule R151) -/

section
variable {s : State}

theorem exec_decodeRequest {c : ReqCode} {m : Mode} {rest : List ReqCode} (hst : s.st = .idle)
    (hreq : s.req = c :: rest) (hm : modeOf c = some m) :
    exec (decodeRequest c) s = .next { startFill s with mode := m, req := rest } := by
  have hf : fetch s = some (.request c) := by rw [fetch_idle hst, hreq]; rfl
  exact (scStep_fetched hf).symm.trans (scStep_accept hst hreq hm)

/-- Outside IDLE SC decodes no request (rule R59). -/
theorem fetch_ne_request (hst : s.st ≠ .idle) (c : ReqCode) : fetch s ≠ some (.request c) :=
  fun h => hst (fetch_request h).1

end

theorem reqReady_reserved {i : PortIn} (hi : i.reqMode = 0b11#2) (p : PortState) : (outputs i p).reqReady = false := by
  simp [outputs, reqReady, hi]

/-- Settles O17: the fetched request is what `exec` meets in IDLE, and no request is fetched elsewhere. -/
theorem requestsAreAcceptedInIdle : Obligations.RequestsAreAcceptedInIdle := by
  refine ⟨fun s rest hst => ⟨fun hreq => ?_, fun hreq => ?_, fun hreq => ?_, fun _ => rfl⟩, fun s hst i hi => ?_,
    fun i p hi => reqReady_reserved hi p⟩
  · exact exec_decodeRequest hst hreq rfl
  · exact exec_decodeRequest hst hreq rfl
  · exact exec_decodeRequest hst hreq rfl
  · simp only [List.mem_cons, List.not_mem_nil, or_false] at hi
    rcases hi with rfl | rfl | rfl <;> exact whenEnabled_disabled (fetch_ne_request hst _)

/-! ### Window classes (rules R154 to R160) -/

/-- In CLASSIFY the step of SC is the meaning of the window's instruction. -/
theorem exec_decodeWindow {s : State} {i : Instr} (hst : s.st = .classify) (hi : decodeWindow s.cfg s.w.word = i) :
    exec i s = scStep s := by
  rw [scStep_fetched (fetch_classify hst), decode, hi]

/-- Settles O20: the window has the signature "TAG", whatever its fourth byte. -/
theorem tagStartsALegacyTag : Obligations.TagStartsALegacyTag := by
  intro s w3 hst hw
  have hsig : signature s.w.word = tagSignature := by
    rw [hw, Window.word, signature_tag_iff]
    exact ⟨rfl, rfl, rfl⟩
  have hi : decodeWindow s.cfg s.w.word = .tag w3 := by
    rw [decodeWindow_tag hsig, hw, Window.word, headerByte_headerWord_3]
  refine ⟨hi, (exec_decodeWindow hst hi).trans ?_⟩
  rw [scStep_tag hst hsig, hw]
  rfl

/-- Settles O21: the window has the signature "ID3", whatever its fourth byte. -/
theorem id3StartsAnExtendedTag : Obligations.Id3StartsAnExtendedTag := by
  intro s w3 hst hw
  have hsig : signature s.w.word = id3Signature := by
    rw [hw, Window.word, signature_id3_iff]
    exact ⟨rfl, rfl, rfl⟩
  have hi : decodeWindow s.cfg s.w.word = .id3 w3 := by
    rw [decodeWindow_id3 hsig, hw, Window.word, headerByte_headerWord_3]
  refine ⟨hi, (exec_decodeWindow hst hi).trans ?_⟩
  rw [scStep_id3 hst hsig, hw]
  rfl

/-- Each of the nine frame rows is the row of one pair of codes (rule R80). -/
theorem exists_frameRow {f : FrameFields} {i : Instr}
    (hi : i ∈ [Instr.frameMpeg1LIII f, .frameMpeg1LII f, .frameMpeg1LI f, .frameMpeg2LIII f, .frameMpeg2LII f,
      .frameMpeg2LI f, .frameMpeg25LIII f, .frameMpeg25LII f, .frameMpeg25LI f]) :
    ∃ v l, frameRow v l f = some i := by
  simp only [List.mem_cons, List.not_mem_nil, or_false] at hi
  rcases hi with rfl | rfl | rfl | rfl | rfl | rfl | rfl | rfl | rfl
  · exact ⟨3, 1, rfl⟩
  · exact ⟨3, 2, rfl⟩
  · exact ⟨3, 3, rfl⟩
  · exact ⟨2, 1, rfl⟩
  · exact ⟨2, 2, rfl⟩
  · exact ⟨2, 3, rfl⟩
  · exact ⟨0, 1, rfl⟩
  · exact ⟨0, 2, rfl⟩
  · exact ⟨0, 3, rfl⟩

/-- Settles O22: a frame row encodes a window with sync, and HD accepts its fields, so SC takes the FRAME match. -/
theorem frameRowsStartAFrame : Obligations.FrameRowsStartAFrame := by
  intro s f d i hmem hst hi hd
  obtain ⟨v, l, hrow⟩ := exists_frameRow hmem
  obtain ⟨-, -, he, -⟩ := frameRow_some (cfg := s.cfg) hrow
  have hw : s.w.word = frameWord v l f := Encoded.window.inj (hi.symm.trans he)
  have hsync : hasSync s.w.word = true := hw ▸ hasSync_frameWord v l f
  have hd : decodeHeader s.cfg s.w.word = .ok d := hd
  have hfields : decodeFields s.cfg v l f = .ok d := by rw [← decodeHeader_frameWord, ← hw, hd]
  obtain ⟨-, -, hvalid⟩ := decodeFields_isOk_iff.1 ⟨d, hfields⟩
  have hdec : decodeWindow s.cfg s.w.word = i := by rw [hw, decodeWindow_frameWord hrow hvalid]
  exact ⟨hdec, decOk_iff.2 ⟨d, hd⟩, decCause_of_ok hd,
    (exec_decodeWindow hst hdec).trans (scStep_frame hst hsync hd)⟩

theorem decOk_of_error {cfg : Config} {h : HeaderWord} {c : Cause} (hd : decodeHeader cfg h = .error c) :
    decOk cfg h = false := by
  rw [← Bool.not_eq_true, decOk_iff, hd]
  exact fun ⟨_, hok⟩ => nomatch hok

/-- Settles O23: the window has sync and HD rejects it. -/
theorem falseSyncShiftsOneByte : Obligations.FalseSyncShiftsOneByte := by
  intro s bits c hst hw hd
  have hsync : hasSync s.w.word = true := hw ▸ hasSync_syncWord bits
  have hd : decodeHeader s.cfg s.w.word = .error c := hd
  have hi : decodeWindow s.cfg s.w.word = .falseSync bits := by
    rw [decodeWindow_sync hsync, decodeSync_rejected hd, hw, extract_syncWord]
  exact ⟨hi, (exec_decodeWindow hst hi).trans (scStep_falseSync hst hsync hd), decOk_of_error hd, decCause_of_error hd⟩

/-- Settles O24: the window has none of the three signatures. -/
theorem nomatchShiftsOneByte : Obligations.NomatchShiftsOneByte := by
  intro s hst htag hid3 hsync
  rw [← signature_tag_iff _ _ _ s.w.w3] at htag
  rw [← signature_id3_iff _ _ _ s.w.w3] at hid3
  rw [← hasSync_iff _ _ s.w.w2 s.w.w3, Bool.not_eq_true] at hsync
  have hi := decodeWindow_nomatch (cfg := s.cfg) htag hid3 hsync
  exact ⟨hi, (exec_decodeWindow hst hi).trans (scStep_nomatch hst htag hid3 hsync)⟩

end Sys2Proof.Machine
end

section
/-!
What a step of MFHD does in each control state when no reset is taken (rules R150 to R163): SC's step on the state with
the reset input consumed, action by action.
-/

namespace Sys2Proof.Machine

/-! ### A step runs what SC decodes (rules R150, R151, R153) -/

/-- Settles O25: by what SC fetches in the control state. -/
theorem stepRunsTheDecodedInstruction : Obligations.StepRunsTheDecodedInstruction := by
  intro s hc hr
  rw [step_running hc hr]
  refine ⟨fun c rest hst hreq => ?_, fun hst hreq => ?_, fun hst => ?_, fun hidle hclassify => ?_⟩
  · have hf : fetch (sampleReset s) = some (.request c) := by
      rw [fetch_idle (s := sampleReset s) hst, sampleReset_req, hreq]
      rfl
    exact scStep_fetched hf
  · exact scStep_idle_waiting (s := sampleReset s) hst hreq
  · exact scStep_fetched (fetch_classify (s := sampleReset s) hst)
  · exact scStep_internal (fetch_other (s := sampleReset s) hidle hclassify)

/-! ### CLASSIFY (rule R153) -/

/-- CLASSIFY with a window that is no object: none of the signatures, or sync and a header that HD rejects. -/
theorem scStep_noObject {s : State} (hst : s.st = .classify) (htag : signature s.w.word ≠ tagSignature)
    (hid3 : signature s.w.word ≠ id3Signature)
    (hno : hasSync s.w.word = false ∨ ∃ c, decodeHeader s.cfg s.w.word = .error c) :
    scStep s = .next { s with st := .shift } := by
  cases hs : hasSync s.w.word with
  | false => exact scStep_nomatch hst htag hid3 hs
  | true =>
    obtain ⟨c, hd⟩ := hno.resolve_left (by simp [hs])
    exact scStep_falseSync hst hs hd

/-- Settles O26: the window's bytes say which signature its word has. -/
theorem classifyTakesOneOfFourActions : Obligations.ClassifyTakesOneOfFourActions := by
  intro s hc hr hst
  simp only [← signature_tag_iff _ _ _ s.w.w3, ← signature_id3_iff _ _ _ s.w.w3, ← hasSync_iff _ _ s.w.w2 s.w.w3]
  refine ⟨fun htag => ?_, fun _ hid3 => ?_, fun _ _ hs d hd => ?_, fun htag hid3 hno => ?_⟩
  · exact (step_running hc hr).trans (scStep_tag (s := sampleReset s) hst htag)
  · exact (step_running hc hr).trans (scStep_id3 (s := sampleReset s) hst hid3)
  · exact (step_running hc hr).trans (scStep_frame (s := sampleReset s) hst hs hd)
  · exact (step_running hc hr).trans
      (scStep_noObject (s := sampleReset s) hst htag hid3 (hno.imp_left Bool.eq_false_of_not_eq_true))

/-! ### The reading states (rules R152, R156, R161, R162) -/

section
variable {s : State} (hc : s.cfg.admissible = true) (hr : resetNow s = false)
include hc hr

theorem step_read_waiting (hst : reads s.st = true) (hsrc : s.src = []) : step s = .next (sampleReset s) :=
  (step_running hc hr).trans (scStep_read_waiting (s := sampleReset s) hst hsrc)

theorem step_read_ended {rest : List SrcAnswer} (hst : reads s.st = true) (hsrc : s.src = .ended :: rest) :
    step s = .next (gotoEos { sampleReset s with src := rest }) :=
  (step_running hc hr).trans (scStep_ended (s := sampleReset s) hst hsrc)

end

/-- `W[n] <- b` (rule R15), the four bytes of the window written out. -/
theorem window_write_eq {n : Nat} (hn : n < 4) (w : Window) (b : Byte) : w.write n b =
    { w0 := if n = 0 then b else w.w0, w1 := if n = 1 then b else w.w1
      w2 := if n = 2 then b else w.w2, w3 := if n = 3 then b else w.w3 } := by
  match n, hn with
  | 0, _ => rfl
  | 1, _ => rfl
  | 2, _ => rfl
  | 3, _ => rfl

/-- Settles O27, by SRC's answer. -/
theorem fillReadsAWindowByte : Obligations.FillReadsAWindowByte := by
  intro s hc hr hst hn
  have hreads : reads s.st = true := by rw [hst]; rfl
  refine ⟨step_read_waiting hc hr hreads, fun rest => step_read_ended hc hr hreads, fun b rest hsrc => ?_⟩
  rw [step_running hc hr, scStep_fill_byte (s := sampleReset s) hst hsrc hn, sampleReset_n, sampleReset_w,
    window_write_eq hn]
  rfl

/-- Settles O28, by SRC's answer. -/
theorem shiftAdvancesByOneByte : Obligations.ShiftAdvancesByOneByte := by
  intro s hc hr hst
  have hreads : reads s.st = true := by rw [hst]; rfl
  exact ⟨step_read_waiting hc hr hreads, fun rest => step_read_ended hc hr hreads,
    fun b rest hsrc => (step_running hc hr).trans (scStep_shift_byte (s := sampleReset s) hst hsrc)⟩

/-- Settles O29, by SRC's answer and whether the byte is the last of the header. -/
theorem headerBytesOfAnExtendedTag : Obligations.HeaderBytesOfAnExtendedTag := by
  intro s hc hr hst
  have hreads : reads s.st = true := by rw [hst]; rfl
  exact ⟨step_read_waiting hc hr hreads, fun rest => step_read_ended hc hr hreads,
    fun b rest hsrc hneed => (step_running hc hr).trans (scStep_header_byte (s := sampleReset s) hst hsrc hneed),
    fun b rest s6 s7 s8 hsrc hneed h6 h7 h8 =>
      (step_running hc hr).trans (scStep_header_last (s := sampleReset s) hst hsrc hneed h6 h7 h8)⟩

/-- Settles O30, by SRC's answer. -/
theorem bodyReadsTheRemainingBytes : Obligations.BodyReadsTheRemainingBytes := by
  intro s hc hr hst hneed
  have hreads : reads s.st = true := by rw [hst]; rfl
  refine ⟨step_read_waiting hc hr hreads, fun rest => step_read_ended hc hr hreads, fun b rest hsrc => ?_⟩
  have hlast : s.need - 1 = 0 ↔ s.need = 1 := by omega
  simp only [step_running hc hr, scStep_body_byte (s := sampleReset s) hst hsrc hneed, hlast]
  rfl

/-! ### DONE (rule R163) -/

/-- `accepts(mode, kind)` of rule R163, written out. -/
theorem accepts_iff (m : Mode) (k : Kind) : accepts m k = true ↔
    m = .any ∨ (m = .frameOnly ∧ k = .frame) ∨ (m = .id3v2Only ∧ k = .id3v2) := by
  cases m <;> simp [accepts]

section
variable {s : State} (hc : s.cfg.admissible = true) (hr : resetNow s = false)
include hc hr

/-- DONE with an object that `mode` accepts: it waits for CON, and emits the object. -/
theorem step_done_emits {o : Obj} (hst : s.st = .done) (hacc : accepts s.mode s.kind = true)
    (ho : finishedObject s = some o) : (s.acks = 0 → step s = .next (sampleReset s)) ∧
      ∀ k, s.acks = k + 1 → step s = .next { sampleReset s with outs := s.outs ++ [o], acks := k, st := .idle } :=
  ⟨fun hack => (step_running hc hr).trans (scStep_emit_waiting (s := sampleReset s) hst hacc ho hack),
    fun _ hack => (step_running hc hr).trans (scStep_emit (s := sampleReset s) hst hacc ho hack)⟩

end

/-- Settles O31: the finished object by its kind, and the discard. -/
theorem doneEmitsOrDiscards : Obligations.DoneEmitsOrDiscards := by
  intro s hc hr hst
  simp only [← accepts_iff, Bool.not_eq_true]
  refine ⟨fun hacc hk d hd => ?_, fun hacc hk => ?_, fun hacc hframe hid3v1 => ?_, fun hacc => ?_⟩
  · exact step_done_emits hc hr hst hacc (by simp only [finishedObject, hk, hd])
  · exact step_done_emits hc hr hst hacc (by simp only [finishedObject, hk])
  · refine step_done_emits hc hr hst hacc ?_
    cases hk : s.kind with
    | frame => exact absurd hk hframe
    | id3v1 => exact absurd hk hid3v1
    | none | id3v2 => simp only [finishedObject, hk]
  · exact (step_running hc hr).trans (scStep_discard (s := sampleReset s) hst hacc)

end Sys2Proof.Machine
end

section
/-!
The state graph (rule R150), and that CLASSIFY is entered only by reading a byte (rule R165).
-/

namespace Sys2Proof.Machine

/-! ### The state graph (rule R150) -/

/-- The successors of each control state, as rule R150 lists them. -/
def successors : Ctl → List Ctl
  | .idle => [.fill]
  | .fill => [.fill, .classify, .eosr]
  | .classify => [.body, .id3hdr, .done, .shift]
  | .shift => [.classify, .eosr]
  | .id3hdr => [.id3hdr, .body, .done, .eosr]
  | .body => [.body, .done, .eosr]
  | .done => [.idle, .fill]
  | .eosr => [.idle]

/-- Each action of SC follows an edge of the graph, or it holds. -/
theorem StepCase.successor {s t : State} (h : StepCase s t) : t.st ∈ successors s.st ∨ t = s := by
  cases h with
  | holds => exact .inr rfl
  | accepted _ _ _ hst | tag hst | id3 hst | noMatch hst | shifted _ _ hst | emitted _ _ hst | discarded hst
  | reported _ hst => exact .inl (by simp [hst, successors])
  | header _ _ hst => exact .inl (by simp [hst, successors])
  | ended rest hst =>
    left
    rcases (reads_iff _).1 hst with hst | hst | hst | hst <;> simp [hst, successors]
  | frame _ hst | filled _ _ hst | headerDone _ _ _ _ _ hst | bodyByte _ _ hst =>
    left
    rw [hst]
    dsimp only
    split <;> decide

/-- Settles O34: a reset by its values, any other step by its action. -/
theorem stateGraph : Obligations.StateGraph := by
  intro s t h
  refine ⟨fun hr => ?_, fun hr => (stepCase_of_step h hr).successor⟩
  obtain ⟨-, ⟨-, rfl⟩ | ⟨hno, -⟩⟩ := step_case h
  · rfl
  · simp [hr] at hno

/-! ### Every CLASSIFY is entered by reading a byte (rule R165) -/

section
variable {s t : State} (h : StepCase s t)
include h

theorem StepCase.pos_le : s.pos ≤ t.pos := by
  rcases h.source with ⟨-, hpos⟩ | ⟨-, ⟨_, -, hpos⟩ | ⟨-, hpos⟩⟩ <;> omega

/-- CLASSIFY waits for nothing, and only FILL's and SHIFT's bytes lead to it. -/
theorem StepCase.classify_entered (hst : t.st = .classify) : t.pos = s.pos + 1 := by
  cases h with
  | filled => rfl
  | shifted => rfl
  | holds hw => simp [Waiting, hst, reads] at hw
  | header _ _ hid3hdr => simp [hid3hdr] at hst
  | frame | headerDone | bodyByte =>
    simp only at hst
    split at hst <;> cases hst
  | _ => cases hst

end

theorem resetNow_of_nil {s : State} (h : s.rst = []) : resetNow s = false := by
  rw [resetNow, h]
  rfl

theorem sampleReset_of_nil {s : State} (h : s.rst = []) : sampleReset s = s := by
  rw [sampleReset, h, List.tail_nil, ← h]

theorem StepCase.rst_eq {s t : State} (h : StepCase s t) : t.rst = s.rst := by
  cases h <;> rfl

/-- Where no reset input is left, a step is an action of SC, and none is left after it. -/
theorem stepCase_of_nil {s t : State} (hr : s.rst = []) (h : step s = .next t) : StepCase s t ∧ t.rst = [] := by
  have hcase := stepCase_of_step h (resetNow_of_nil hr)
  rw [sampleReset_of_nil hr] at hcase
  exact ⟨hcase, hcase.rst_eq.trans hr⟩

/-- What holds of a state `u` on a run without resets from a state at `pos`: `u` stands in CLASSIFY only after a byte
more. -/
def Progressed (pos : Nat) (u : State) : Prop := u.rst = [] ∧ pos ≤ u.pos ∧ (u.st = .classify → pos < u.pos)

theorem progressed_step {pos : Nat} {u v : State} (hr : u.rst = []) (hpos : pos ≤ u.pos) (h : step u = .next v) :
    Progressed pos v := by
  obtain ⟨hcase, hr'⟩ := stepCase_of_nil hr h
  refine ⟨hr', hpos.trans hcase.pos_le, fun hst => ?_⟩
  have := hcase.classify_entered hst
  omega

/-- A run of at least one step begins with a step. -/
theorem run_pos {k : Nat} {s t : State} (hk : 0 < k) (h : run k s = .next t) :
    ∃ j u, k = j + 1 ∧ step s = .next u ∧ run j u = .next t := by
  obtain ⟨j, rfl⟩ := Nat.exists_eq_succ_of_ne_zero hk.ne'
  cases hs : step s with
  | next u => exact ⟨j, u, rfl, rfl, run_step hs ▸ h⟩
  | fault f => simp [run, hs] at h
  | refused r => simp [run, hs] at h

/-- Settles O38: the first step makes `Progressed` hold, and every later step keeps it. -/
theorem forwardProgress : Obligations.ForwardProgress := by
  intro k s t hr _ hst hk hrun
  obtain ⟨j, u, -, hs, hrun⟩ := run_pos hk hrun
  have hkeeps : ∀ v w, Progressed s.pos v → step v = .next w → Progressed s.pos w :=
    fun v w ⟨hvr, hpos, _⟩ hvw => progressed_step hvr hpos hvw
  obtain ⟨-, -, hgrown⟩ := run_induction hkeeps (progressed_step hr le_rfl hs) hrun
  exact hgrown hst

end Sys2Proof.Machine
end

section
/-!
Runs without resets through the reading states: how many steps a run of bytes takes and what it leaves, in FILL and in
the two states that read an object's bytes; and so a truncated object's run (rules R152, R156, R162, R169).
-/

namespace Sys2Proof.Machine

/-! ### Steps and runs where no reset input is left -/

section
variable {s t : State} (hc : s.cfg.admissible = true) (hr : s.rst = [])
include hc hr

theorem step_of_scStep (h : scStep s = .next t) : step s = .next t := by
  rw [step_running hc (resetNow_of_nil hr), sampleReset_of_nil hr, h]

theorem run_succ_of_scStep (h : scStep s = .next t) (k : Nat) : run (k + 1) s = run k t :=
  run_step (step_of_scStep hc hr h)

end

/-! ### The bytes of an object (rules R156, R162) -/

/-- ID3HDR and BODY read on while a byte more is needed: each byte joins the buffer. -/
theorem run_object_bytes {s : State} {bytes : List Byte} {rest : List SrcAnswer} (hc : s.cfg.admissible = true)
    (hr : s.rst = []) (hst : s.st = .id3hdr ∨ s.st = .body) (hneed : bytes.length < s.need)
    (hsrc : s.src = bytes.map SrcAnswer.byte ++ rest) :
    run bytes.length s = .next { s with
      src := rest, pos := s.pos + bytes.length, buf := s.buf ++ bytes, need := s.need - bytes.length } := by
  induction bytes generalizing s with
  | nil => simp [run, ← show s.src = rest from hsrc]
  | cons b bytes ih =>
    rw [List.length_cons] at hneed ⊢
    have hstep : scStep s = .next { s with
        src := bytes.map SrcAnswer.byte ++ rest, pos := s.pos + 1, buf := s.buf ++ [b], need := s.need - 1 } := by
      rcases hst with hst | hst
      · exact scStep_header_byte hst hsrc (by omega)
      · rw [scStep_body_byte hst hsrc (by omega), if_neg (by omega), ← hst]
        rfl
    refine (run_succ_of_scStep hc hr hstep _).trans (Eq.trans (ih hc hr hst (Nat.lt_sub_of_add_lt hneed) rfl) ?_)
    simp only [List.append_assoc, List.singleton_append, Nat.add_assoc, Nat.add_comm 1, Nat.sub_sub]

/-- `End` leads to its report and back to IDLE (rules R203 to R205). -/
theorem run_ended {s : State} {rest : List SrcAnswer} {k : Nat} (hc : s.cfg.admissible = true) (hr : s.rst = [])
    (hst : reads s.st = true) (hsrc : s.src = .ended :: rest) (hack : s.acks = k + 1) :
    run 2 s = .next { gotoEos { s with src := rest } with
      outs := s.outs ++ [.endOfStream], acks := k, st := .idle } :=
  (run_succ_of_scStep hc hr (scStep_ended hst hsrc) 1).trans
    (run_succ_of_scStep (s := gotoEos { s with src := rest }) hc hr (scStep_report rfl hack) 0)

/-- Settles O46: the bytes before `End`, and then `End`. -/
theorem truncatedObjectEndsTheRequest : Obligations.TruncatedObjectEndsTheRequest := by
  intro s bytes rest hc hr hst hneed hsrc hack
  obtain ⟨k, hk⟩ := Nat.exists_eq_succ_of_ne_zero hack.ne'
  rw [run_add (run_object_bytes hc hr hst hneed hsrc)]
  exact ⟨_, run_ended hc hr ((reads_iff _).2 (.inr (.inr hst))) rfl hk, rfl, rfl, rfl, rfl, rfl, rfl, rfl, rfl, rfl⟩

/-! ### Filling the window (rule R152) -/

/-- The window with `bytes` written from byte `n` on. -/
def Window.writeAll (w : Window) : Nat → List Byte → Window
  | _, [] => w
  | n, b :: bytes => (w.write n b).writeAll (n + 1) bytes

/-- FILL reads on until the window is full. -/
theorem run_fill_bytes {s : State} {bytes : List Byte} {rest : List SrcAnswer} (hc : s.cfg.admissible = true)
    (hr : s.rst = []) (hst : s.st = if s.n = 4 then .classify else .fill) (hroom : s.n + bytes.length ≤ 4)
    (hsrc : s.src = bytes.map SrcAnswer.byte ++ rest) :
    run bytes.length s = .next { s with
      src := rest, pos := s.pos + bytes.length, w := s.w.writeAll s.n bytes, n := s.n + bytes.length
      st := if s.n + bytes.length = 4 then .classify else .fill } := by
  induction bytes generalizing s with
  | nil => simp [run, Window.writeAll, ← show s.src = rest from hsrc, ← hst]
  | cons b bytes ih =>
    rw [List.length_cons] at hroom ⊢
    have hstep := scStep_fill_byte (hst.trans (if_neg (by omega))) hsrc (by omega)
    refine (run_succ_of_scStep hc hr hstep _).trans (Eq.trans (ih hc hr rfl ?_ rfl) ?_)
    · simp only
      omega
    · simp only [Window.writeAll, Nat.add_assoc, Nat.add_comm 1]

end Sys2Proof.Machine
end

section
/-!
The source's algorithm `nextObject` (MP3LIB §4.2), rule by rule: what its reads of several bytes give, and what a scan
finds from a full window, by the window's class.
-/

namespace Sys2Proof.Machine

/-! ### Reads of several bytes (rule R52) -/

theorem takeBytes_got {k : Nat} {src rest : List SrcAnswer} {bytes : List Byte}
    (h : takeBytes k src = .got bytes rest) : bytes.length = k ∧ src = bytes.map SrcAnswer.byte ++ rest := by
  fun_induction takeBytes k src generalizing bytes rest with
  | case1 src =>
    cases h
    exact ⟨rfl, rfl⟩
  | case4 k b src bs rest' hgot ih =>
    cases h
    obtain ⟨hlen, hsrc⟩ := ih hgot
    exact ⟨congrArg (· + 1) hlen, congrArg (SrcAnswer.byte b :: ·) hsrc⟩
  | _ => cases h

theorem takeBytes_short {k c : Nat} {src rest : List SrcAnswer} (h : takeBytes k src = .short c rest) :
    ∃ bytes : List Byte, bytes.length = c ∧ c < k ∧ src = bytes.map SrcAnswer.byte ++ .ended :: rest := by
  fun_induction takeBytes k src generalizing c rest with
  | case3 k rest' =>
    cases h
    exact ⟨[], rfl, Nat.zero_lt_succ k, rfl⟩
  | case5 k b src c' rest' hshort ih =>
    cases h
    obtain ⟨bytes, hlen, hlt, hsrc⟩ := ih hshort
    exact ⟨b :: bytes, congrArg (· + 1) hlen, Nat.succ_lt_succ hlt, congrArg (SrcAnswer.byte b :: ·) hsrc⟩
  | _ => cases h

theorem takeBytes_append (bytes : List Byte) (rest : List SrcAnswer) :
    takeBytes bytes.length (bytes.map SrcAnswer.byte ++ rest) = .got bytes rest := by
  induction bytes with
  | nil => rfl
  | cons b bytes ih => simp only [List.length_cons, List.map_cons, List.cons_append, takeBytes, ih]

/-- `f` is the end of a stream that gives `End` before `k` bytes (rule R169). -/
def EndsWithin (k : Nat) (src : List SrcAnswer) (f : Found) : Prop :=
  ∃ (bytes : List Byte) (rest : List SrcAnswer), bytes.length < k ∧ src = bytes.map SrcAnswer.byte ++ .ended :: rest ∧
    f = ⟨.endOfStream, rest, bytes.length⟩

theorem endsWithin_of_short {k c : Nat} {src rest : List SrcAnswer} (h : takeBytes k src = .short c rest) :
    EndsWithin k src ⟨.endOfStream, rest, c⟩ := by
  obtain ⟨bytes, rfl, hlt, hsrc⟩ := takeBytes_short h
  exact ⟨bytes, rest, hlt, hsrc, rfl⟩

/-- What `finishObject` finds: the whole object, or the end of the stream before its last byte. -/
theorem finishObject_some {make : List Byte → Obj} {first : List Byte} {k : Nat} {src : List SrcAnswer} {f : Found}
    (h : finishObject make first k src = some f) :
    (∃ (bytes : List Byte) (rest : List SrcAnswer), bytes.length = k ∧ src = bytes.map SrcAnswer.byte ++ rest ∧
      f = ⟨make (first ++ bytes), rest, k⟩) ∨
    EndsWithin k src f := by
  unfold finishObject at h
  split at h
  · next bytes rest hgot =>
    obtain ⟨hlen, hsrc⟩ := takeBytes_got hgot
    exact .inl ⟨bytes, rest, hlen, hsrc, (Option.some.inj h).symm⟩
  · next c rest hshort =>
    exact .inr (Option.some.inj h ▸ endsWithin_of_short hshort)
  · cases h

/-- What `finishExtended` finds: the header declares a size and the body is read, or the stream ends in the header. -/
theorem finishExtended_some {first : List Byte} {src : List SrcAnswer} {f : Found}
    (h : finishExtended first src = some f) :
    (∃ (bytes : List Byte) (rest : List SrcAnswer) (size : Nat) (g : Found), bytes.length = 6 ∧
      src = bytes.map SrcAnswer.byte ++ rest ∧ declaredSize (first ++ bytes) = some size ∧
      finishObject .extendedTag (first ++ bytes) size rest = some g ∧ f = g.after 6) ∨
    EndsWithin 6 src f := by
  unfold finishExtended at h
  split at h
  · next bytes rest hgot =>
    obtain ⟨hlen, hsrc⟩ := takeBytes_got hgot
    split at h
    · next size hsize =>
      obtain ⟨g, hg, rfl⟩ := Option.map_eq_some_iff.1 h
      exact .inl ⟨bytes, rest, size, g, hlen, hsrc, hsize, hg, rfl⟩
    · cases h
  · next c rest hshort =>
    exact .inr (Option.some.inj h ▸ endsWithin_of_short hshort)
  · cases h

/-! ### The scan from a full window, by its class (rules R153 to R160) -/

section
variable {cfg : Config} {w : Window} {src : List SrcAnswer}

theorem scanFrom_tag (h : signature w.word = tagSignature) :
    scanFrom cfg w src = finishObject .legacyTag w.bytes 124 src := by
  rw [scanFrom.eq_def, if_pos ((signature_tag_iff ..).1 h)]

theorem scanFrom_id3 (h : signature w.word = id3Signature) : scanFrom cfg w src = finishExtended w.bytes src := by
  have htag : signature w.word ≠ tagSignature := by
    rw [h]
    decide
  rw [scanFrom.eq_def, if_neg (mt (signature_tag_iff ..).2 htag), if_pos ((signature_id3_iff ..).1 h)]

theorem scanFrom_frame {d : FrameDescriptor} (hs : hasSync w.word = true) (hok : decodeHeader cfg w.word = .ok d) :
    scanFrom cfg w src = finishObject (.frame d) w.bytes (d.frameLength - 4) src := by
  have hhd : hd cfg w.w0 w.w1 w.w2 w.w3 = .ok d := hok
  rw [scanFrom.eq_def, if_neg (mt (signature_tag_iff ..).2 (not_tag_of_sync hs)),
    if_neg (mt (signature_id3_iff ..).2 (not_id3_of_sync hs)), if_pos ((hasSync_iff ..).1 hs), hhd]
  rfl

/-- A window that is no object: the scan goes on with the next answer. -/
theorem scanFrom_noObject_some {f : Found} (htag : signature w.word ≠ tagSignature)
    (hid3 : signature w.word ≠ id3Signature)
    (hno : hasSync w.word = false ∨ ∃ c, decodeHeader cfg w.word = .error c) (h : scanFrom cfg w src = some f) :
    (∃ rest, src = .ended :: rest ∧ f = ⟨.endOfStream, rest, 0⟩) ∨
    (∃ b rest g, src = .byte b :: rest ∧ scanFrom cfg (w.shiftIn b) rest = some g ∧ f = g.after 1) := by
  have hnone : (if w.w0 = 0xFF#8 ∧ w.w1 &&& 0xE0#8 = 0xE0#8 then (hd cfg w.w0 w.w1 w.w2 w.w3).toOption else none) =
      none := by
    split
    · next hs =>
      obtain ⟨c, hc⟩ := hno.resolve_left (by simp [Window.word, (hasSync_iff ..).2 hs])
      have hhd : hd cfg w.w0 w.w1 w.w2 w.w3 = .error c := hc
      rw [hhd]
      rfl
    · rfl
  rw [scanFrom.eq_def, if_neg (mt (signature_tag_iff ..).2 htag), if_neg (mt (signature_id3_iff ..).2 hid3), hnone] at h
  match src, h with
  | [], h => cases h
  | .ended :: rest, h => exact .inl ⟨rest, rfl, (Option.some.inj h).symm⟩
  | .byte b :: rest, h =>
    obtain ⟨g, hg, rfl⟩ := Option.map_eq_some_iff.1 h
    exact .inr ⟨b, rest, g, rfl, hg, rfl⟩

end

theorem nextObject_some {cfg : Config} {src : List SrcAnswer} {f : Found} (h : nextObject cfg src = some f) :
    (∃ b0 b1 b2 b3 rest g, src = .byte b0 :: .byte b1 :: .byte b2 :: .byte b3 :: rest ∧
      scanFrom cfg ⟨b0, b1, b2, b3⟩ rest = some g ∧ f = g.after 4) ∨
    EndsWithin 4 src f := by
  unfold nextObject at h
  split at h
  · next b0 b1 b2 b3 rest hgot =>
    obtain ⟨g, hg, rfl⟩ := Option.map_eq_some_iff.1 h
    exact .inl ⟨b0, b1, b2, b3, rest, g, (takeBytes_got hgot).2, hg, rfl⟩
  · cases h
  · next c rest hshort =>
    exact .inr (Option.some.inj h ▸ endsWithin_of_short hshort)
  · cases h

end Sys2Proof.Machine
end

section
/-!
The machine refines the source's algorithm (rules R164 to R167): a run from FILL or CLASSIFY reaches a state that holds
the object `nextObject` finds, DONE emits it or scans on, and so a request serves what `nextPassing` finds.
-/

namespace Sys2Proof.Machine

/-! ### Reaching a state -/

/-- Some run from `s` ends in `t`. -/
def Reaches (s t : State) : Prop := ∃ k, run k s = .next t

theorem reaches_refl (s : State) : Reaches s s := ⟨0, rfl⟩

theorem Reaches.trans {s t u : State} (h : Reaches s t) (h' : Reaches t u) : Reaches s u := by
  obtain ⟨a, ha⟩ := h
  obtain ⟨b, hb⟩ := h'
  exact ⟨a + b, (run_add ha).trans hb⟩

theorem reaches_of_scStep {s t : State} (hc : s.cfg.admissible = true) (hr : s.rst = []) (h : scStep s = .next t) :
    Reaches s t :=
  ⟨1, run_succ_of_scStep hc hr h 0⟩

/-! ### What a scan keeps and what it finds -/

/-- What no step between two emissions writes: the configuration, the mode, the history, and what the environment is
about to do besides SRC's answers. -/
structure Kept (s t : State) : Prop where
  cfg : t.cfg = s.cfg
  mode : t.mode = s.mode
  outs : t.outs = s.outs
  req : t.req = s.req
  acks : t.acks = s.acks
  rst : t.rst = s.rst

theorem Kept.trans {s t u : State} (h : Kept s t) (h' : Kept t u) : Kept s u :=
  ⟨h'.cfg.trans h.cfg, h'.mode.trans h.mode, h'.outs.trans h.outs, h'.req.trans h.req, h'.acks.trans h.acks,
    h'.rst.trans h.rst⟩

theorem kept_registers (s : State) (st : Ctl) (w : Window) (n : Nat) (kind : Kind) (need : Nat) (buf : List Byte)
    (desc : Option FrameDescriptor) (pos : Nat) (src : List SrcAnswer) :
    Kept s { s with st, w, n, kind, need, buf, desc, pos, src } :=
  ⟨rfl, rfl, rfl, rfl, rfl, rfl⟩

/-- SC holds the object `o`: it is finished in DONE, or it is the end of the stream, in EOSR. -/
def Holds (t : State) (o : Obj) : Prop :=
  (t.st = .eosr ∧ o = .endOfStream) ∨ (t.st = .done ∧ t.kind ≠ .none ∧ finishedObject t = some o)

/-- A run from `s` comes to hold the object that the scan result `f` names, and takes the same answers. -/
def Finds (s : State) (f : Found) : Prop :=
  ∃ t, Reaches s t ∧ Kept s t ∧ Holds t f.obj ∧ t.src = f.rest ∧ t.pos = s.pos + f.taken

/-- A result found after a run over `k` bytes. -/
theorem Finds.after {s u : State} {f : Found} {k : Nat} (hrun : Reaches s u) (hk : Kept s u) (hpos : u.pos = s.pos + k)
    (h : Finds u f) : Finds s (f.after k) := by
  obtain ⟨t, hreach, hkept, hholds, hsrc, htaken⟩ := h
  exact ⟨t, hrun.trans hreach, hk.trans hkept, hholds, hsrc, by rw [htaken, hpos, Nat.add_assoc]; rfl⟩

theorem found_after_zero (f : Found) : f.after 0 = f := by
  simp [Found.after]

/-- A result found after a step that reads no byte. -/
theorem Finds.of_step {s u : State} {f : Found} (hc : s.cfg.admissible = true) (hr : s.rst = [])
    (hstep : scStep s = .next u) (hk : Kept s u) (hpos : u.pos = s.pos) (h : Finds u f) : Finds s f :=
  found_after_zero f ▸ Finds.after (reaches_of_scStep hc hr hstep) hk hpos h

section
variable {s : State} {f : Found} {bytes init : List Byte} {b : Byte} {rest : List SrcAnswer} {size : Nat}
  {make : List Byte → Obj} (hc : s.cfg.admissible = true) (hr : s.rst = [])
include hc hr

/-- `End` in a reading state. -/
theorem finds_ended (hst : reads s.st = true) (hsrc : s.src = .ended :: rest) :
    Finds s ⟨.endOfStream, rest, 0⟩ :=
  ⟨_, reaches_of_scStep hc hr (scStep_ended hst hsrc), kept_registers .., .inl ⟨rfl, rfl⟩, rfl, rfl⟩

/-- `End` while an object is read (rule R169). -/
theorem finds_truncated (hst : s.st = .id3hdr ∨ s.st = .body) (h : EndsWithin s.need s.src f) :
    Finds s f := by
  obtain ⟨bytes, rest, hlt, hsrc, rfl⟩ := h
  refine Finds.after (f := ⟨.endOfStream, rest, 0⟩) ⟨_, run_object_bytes hc hr hst hlt hsrc⟩ (kept_registers ..) rfl ?_
  exact finds_ended hc hr ((reads_iff _).2 (.inr (.inr hst))) rfl

/-- BODY reads the bytes that the object still needs (rule R162). -/
theorem reaches_done (hst : s.st = .body) (hneed : s.need = init.length + 1)
    (hsrc : s.src = (init ++ [b]).map SrcAnswer.byte ++ rest) :
    Reaches s { s with src := rest, pos := s.pos + s.need, buf := s.buf ++ (init ++ [b]), need := 0, st := .done } := by
  have hsrc' : s.src = init.map SrcAnswer.byte ++ .byte b :: rest := by simpa using hsrc
  have hlast : s.need - init.length = 1 := by omega
  refine Reaches.trans ⟨_, run_object_bytes hc hr (.inr hst) (by omega) hsrc'⟩ ?_
  refine reaches_of_scStep hc hr (Eq.trans (scStep_body_byte hst rfl hlast.ge) ?_)
  simp [hneed, Nat.add_assoc]

/-- BODY or, where no byte is needed, DONE: the rest of the object is read, or the stream ends in it (rules R162,
R169). -/
theorem finds_object (hst : s.st = if s.need = 0 then .done else .body) (hkind : s.kind ≠ .none)
    (hmake : ∀ t : State, t.kind = s.kind → t.desc = s.desc → finishedObject t = some (make t.buf))
    (h : finishObject make s.buf s.need s.src = some f) : Finds s f := by
  rcases finishObject_some h with ⟨bytes, rest, hlen, hsrc, rfl⟩ | htrunc
  · rcases List.eq_nil_or_concat bytes with rfl | ⟨init, b, rfl⟩
    · have hneed : s.need = 0 := hlen.symm
      rw [if_pos hneed] at hst
      refine ⟨s, reaches_refl s, kept_registers .., .inr ⟨hst, hkind, ?_⟩, hsrc, congrArg (s.pos + ·) hneed.symm⟩
      rw [List.append_nil, hmake s rfl rfl]
    · rw [List.concat_eq_append] at *
      have hneed : s.need = init.length + 1 := by simpa using hlen.symm
      rw [if_neg (by omega)] at hst
      exact ⟨_, reaches_done hc hr hst hneed hsrc, kept_registers .., .inr ⟨rfl, hkind, hmake _ rfl rfl⟩, rfl, rfl⟩
  · have hneed : s.need ≠ 0 := by
      obtain ⟨bytes, rest, hlt, -⟩ := htrunc
      omega
    exact finds_truncated hc hr (.inr (hst.trans (if_neg hneed))) htrunc

/-- ID3HDR reads the six remaining bytes of the header, which declare the size of the body (rule R156). -/
theorem reaches_body (hst : s.st = .id3hdr) (hbuf : s.buf.length = 4) (hneed : s.need = 6)
    (hlen : bytes.length = 6) (hsrc : s.src = bytes.map SrcAnswer.byte ++ rest)
    (hsize : declaredSize (s.buf ++ bytes) = some size) :
    Reaches s { s with
      src := rest, pos := s.pos + 6, buf := s.buf ++ bytes, kind := .id3v2, need := size
      st := if size = 0 then .done else .body } := by
  rcases List.eq_nil_or_concat bytes with rfl | ⟨init, b, rfl⟩
  · cases hlen
  rw [List.concat_eq_append] at *
  have hinit : init.length = 5 := by simpa using hlen
  have hlen9 : (s.buf ++ init).length = 9 := by rw [List.length_append, hbuf, hinit]
  have hsrc' : s.src = init.map SrcAnswer.byte ++ .byte b :: rest := by simpa using hsrc
  have hget (k : Nat) (hk : k < 9) : ∃ x, (s.buf ++ init)[k]? = some x := ⟨_, List.getElem?_eq_getElem (hlen9 ▸ hk)⟩
  obtain ⟨s6, h6⟩ := hget 6 (by decide)
  obtain ⟨s7, h7⟩ := hget 7 (by decide)
  obtain ⟨s8, h8⟩ := hget 8 (by decide)
  rw [← List.append_assoc, declaredSize_header hlen9 h6 h7 h8 b, Option.some.injEq] at hsize
  refine Reaches.trans ⟨_, run_object_bytes hc hr (.inl hst) (by omega) hsrc'⟩ ?_
  refine reaches_of_scStep hc hr (Eq.trans (scStep_header_last hst rfl (by simp only; omega) h6 h7 h8) ?_)
  simp only [hsize, hinit, List.append_assoc, Nat.add_assoc]

/-- An Extended Tag from its window on (rules R155, R156, R162). -/
theorem finds_extended (hst : s.st = .id3hdr) (hbuf : s.buf.length = 4) (hneed : s.need = 6)
    (h : finishExtended s.buf s.src = some f) : Finds s f := by
  rcases finishExtended_some h with ⟨bytes, rest, size, g, hlen, hsrc, hsize, hg, rfl⟩ | htrunc
  · refine Finds.after (reaches_body hc hr hst hbuf hneed hlen hsrc hsize) (kept_registers ..) rfl ?_
    exact finds_object hc hr rfl nofun (fun t hk _ => by simp only [finishedObject, hk]) hg
  · exact finds_truncated hc hr (.inl hst) (hneed ▸ htrunc)

end

/-! ### A scan from CLASSIFY and from FILL -/

/-- From a full window: a recognised object, or SHIFT and the next window (rules R153 to R161). -/
theorem finds_scanFrom {s : State} {f : Found} (hc : s.cfg.admissible = true) (hr : s.rst = []) (hst : s.st = .classify)
    (h : scanFrom s.cfg s.w s.src = some f) : Finds s f := by
  induction hlen : s.src.length using Nat.strong_induction_on generalizing s f with
  | _ len ih =>
  by_cases htag : signature s.w.word = tagSignature
  · rw [scanFrom_tag htag] at h
    refine Finds.of_step hc hr (scStep_tag hst htag) (kept_registers ..) rfl ?_
    exact finds_object hc hr rfl nofun (fun t hk _ => by simp only [finishedObject, hk]) h
  by_cases hid3 : signature s.w.word = id3Signature
  · rw [scanFrom_id3 hid3] at h
    refine Finds.of_step hc hr (scStep_id3 hst hid3) (kept_registers ..) rfl ?_
    exact finds_extended hc hr rfl rfl rfl h
  by_cases hframe : hasSync s.w.word = true ∧ ∃ d, decodeHeader s.cfg s.w.word = .ok d
  · obtain ⟨hs, d, hd⟩ := hframe
    rw [scanFrom_frame hs hd] at h
    refine Finds.of_step hc hr (scStep_frame hst hs hd) (kept_registers ..) rfl ?_
    exact finds_object hc hr rfl nofun (fun t hk hdesc => by simp only [finishedObject, hk, hdesc]) h
  have hno : hasSync s.w.word = false ∨ ∃ c, decodeHeader s.cfg s.w.word = .error c := by
    rw [not_and_or, Bool.not_eq_true, decodeHeader_isOk_iff, Bool.not_eq_true, ← decodeHeader_isError_iff] at hframe
    exact hframe
  refine Finds.of_step hc hr (scStep_noObject hst htag hid3 hno) (kept_registers ..) rfl ?_
  rcases scanFrom_noObject_some htag hid3 hno h with ⟨rest, hsrc, rfl⟩ | ⟨b, rest, g, hsrc, hg, rfl⟩
  · exact finds_ended hc hr rfl hsrc
  · refine Finds.after (reaches_of_scStep hc hr (scStep_shift_byte rfl hsrc)) (kept_registers ..) rfl ?_
    exact ih rest.length (by rw [← hlen, hsrc]; exact Nat.lt_succ_self _) hc hr rfl hg rfl

/-- From the start of a fill: a full window, or the end of the stream before it (rule R152). -/
theorem finds_nextObject {s : State} {f : Found} (hc : s.cfg.admissible = true) (hr : s.rst = []) (hst : s.st = .fill)
    (hn : s.n = 0) (h : nextObject s.cfg s.src = some f) : Finds s f := by
  have hfill : s.st = if s.n = 4 then .classify else .fill := by rw [hst, hn]; rfl
  rcases nextObject_some h with ⟨b0, b1, b2, b3, rest, g, hsrc, hg, rfl⟩ | ⟨bytes, rest, hlt, hsrc, rfl⟩
  · have hrun := run_fill_bytes (bytes := [b0, b1, b2, b3]) hc hr hfill (by rw [hn]; exact le_rfl) hsrc
    rw [hn] at hrun
    exact Finds.after ⟨_, hrun⟩ (kept_registers ..) rfl (finds_scanFrom hc hr rfl hg)
  · have hrun := run_fill_bytes hc hr hfill (by omega) hsrc
    rw [hn, Nat.zero_add, if_neg hlt.ne] at hrun
    refine Finds.after (f := ⟨.endOfStream, rest, 0⟩) ⟨_, hrun⟩ (kept_registers ..) rfl ?_
    exact finds_ended hc hr rfl rfl

/-! ### A request (rules R151, R163, R164, R205) -/

/-- The mode lets a finished object through exactly as it lets the result of a scan through. -/
theorem passes_finishedObject {s : State} {o : Obj} (hkind : s.kind ≠ .none) (ho : finishedObject s = some o)
    (m : Mode) : passes m o = accepts m s.kind := by
  cases hk : s.kind with
  | none => exact absurd hk hkind
  | frame =>
    cases hd : s.desc with
    | none => simp [finishedObject, hk, hd] at ho
    | some d =>
      simp only [finishedObject, hk, hd, Option.some.injEq] at ho
      exact ho ▸ rfl
  | id3v1 | id3v2 =>
    simp only [finishedObject, hk, Option.some.injEq] at ho
    exact ho ▸ rfl

/-- What SC holds and the mode lets through, it offers. -/
theorem offeredObject_of_holds {s : State} {o : Obj} (h : Holds s o) (hpass : passes s.mode o = true) :
    offeredObject s = some o := by
  rcases h with ⟨hst, rfl⟩ | ⟨hst, hkind, ho⟩
  · exact offeredObject_eosr hst
  · rw [passes_finishedObject hkind ho] at hpass
    simp [offeredObject, hst, hpass, ho]

/-- What SC holds and the mode does not let through, it discards: the end of the stream is never dropped (rule R164). -/
theorem scStep_of_not_passes {s : State} {o : Obj} (h : Holds s o) (hpass : passes s.mode o = false) :
    scStep s = .next (startFill s) := by
  rcases h with ⟨-, rfl⟩ | ⟨hst, hkind, ho⟩
  · simp [passes] at hpass
  · exact scStep_discard hst ((passes_finishedObject hkind ho _).symm.trans hpass)

theorem nextPassing_some {cfg : Config} {m : Mode} {fuel : Nat} {src : List SrcAnswer} {f : Found}
    (h : nextPassing cfg m (fuel + 1) src = some f) : ∃ g, nextObject cfg src = some g ∧
      ((passes m g.obj = true ∧ f = g) ∨
        (passes m g.obj = false ∧ ∃ f', nextPassing cfg m fuel g.rest = some f' ∧ f = f'.after g.taken)) := by
  unfold nextPassing at h
  split at h
  · cases h
  · next g hg =>
    refine ⟨g, hg, ?_⟩
    split at h
    · next hpass => exact .inl ⟨hpass, (Option.some.inj h).symm⟩
    · next hpass =>
      obtain ⟨f', hf', rfl⟩ := Option.map_eq_some_iff.1 h
      exact .inr ⟨Bool.eq_false_of_not_eq_true hpass, f', hf', rfl⟩

/-- In `t` SC has served a request from `s` with the result `f`: it is in IDLE, has emitted the object, and has taken
the same answers of SRC and one acceptance. -/
structure Served (s : State) (f : Found) (t : State) : Prop where
  cfg : t.cfg = s.cfg
  rst : t.rst = s.rst
  idle : t.st = .idle
  outs : t.outs = s.outs ++ [f.obj]
  src : t.src = f.rest
  pos : t.pos = s.pos + f.taken
  acks : s.acks = t.acks + 1
  req : t.req = s.req

/-- Served after a scan whose result was dropped. -/
theorem Served.after {s u t : State} {f : Found} {k : Nat} (hk : Kept s u) (hpos : u.pos = s.pos + k)
    (h : Served u f t) : Served s (f.after k) t :=
  ⟨h.cfg.trans hk.cfg, h.rst.trans hk.rst, h.idle, h.outs.trans (by rw [hk.outs]; rfl), h.src,
    by rw [h.pos, hpos, Nat.add_assoc]; rfl, hk.acks.symm.trans h.acks, h.req.trans hk.req⟩

/-- From the start of a fill SC serves what the repeated scan finds, dropping what the mode does not let through. -/
theorem served_of_nextPassing {fuel : Nat} {s : State} {f : Found} (hc : s.cfg.admissible = true) (hr : s.rst = [])
    (hst : s.st = .fill) (hn : s.n = 0) (hack : 0 < s.acks) (h : nextPassing s.cfg s.mode fuel s.src = some f) :
    ∃ t, Reaches s t ∧ Served s f t := by
  induction fuel generalizing s f with
  | zero => cases h
  | succ fuel ih =>
    obtain ⟨g, hg, hf⟩ := nextPassing_some h
    obtain ⟨u, hrun, hk, hholds, hsrc, hpos⟩ := finds_nextObject hc hr hst hn hg
    have hcu : u.cfg.admissible = true := hk.cfg ▸ hc
    have hru : u.rst = [] := hk.rst.trans hr
    have hacku : 0 < u.acks := hk.acks ▸ hack
    rw [← hk.mode] at hf
    rcases hf with ⟨hpass, rfl⟩ | ⟨hpass, f', hf', rfl⟩
    · obtain ⟨k, hk'⟩ := Nat.exists_eq_succ_of_ne_zero hacku.ne'
      have hemit := scStep_offered (offeredObject_of_holds hholds hpass) hk'
      refine ⟨_, hrun.trans (reaches_of_scStep hcu hru hemit), hk.cfg, hk.rst, rfl, ?_, hsrc, hpos, ?_, hk.req⟩
      · rw [hk.outs]
      · rw [← hk.acks, hk']
    · rw [← hk.cfg, ← hsrc] at hf'
      obtain ⟨t, hrun', hserved⟩ := ih (s := startFill u) hcu hru rfl rfl hacku hf'
      refine ⟨t, (hrun.trans (reaches_of_scStep hcu hru (scStep_of_not_passes hholds hpass))).trans hrun', ?_⟩
      exact hserved.after (u := startFill u) (hk.trans (kept_registers ..)) hpos

/-- A request of IDLE serves what the repeated scan finds. -/
theorem request_served {s : State} {c : ReqCode} {rest : List ReqCode} {m : Mode} {fuel : Nat} {f : Found}
    (hc : s.cfg.admissible = true) (hr : s.rst = []) (hst : s.st = .idle) (hreq : s.req = c :: rest)
    (hm : modeOf c = some m) (hack : 0 < s.acks) (h : nextPassing s.cfg m fuel s.src = some f) :
    ∃ t, Reaches s t ∧ Served { s with req := rest } f t := by
  obtain ⟨t, hrun, hserved⟩ :=
    served_of_nextPassing (s := { startFill s with mode := m, req := rest }) hc hr rfl rfl hack h
  refine ⟨t, (reaches_of_scStep hc hr (scStep_accept hst hreq hm)).trans hrun, ?_⟩
  exact ⟨hserved.cfg, hserved.rst, hserved.idle, hserved.outs, hserved.src, hserved.pos, hserved.acks, hserved.req⟩

/-- Settles O44: the request's run serves what `nextPassing` finds. -/
theorem requestRefinesNextObject : Obligations.RequestRefinesNextObject := by
  intro s c rest m fuel f hc hr hst hreq hm hack h
  obtain ⟨t, ⟨k, hrun⟩, hserved⟩ := request_served hc hr hst hreq hm hack h
  exact ⟨k, t, hrun, hserved.idle, hserved.outs, hserved.src, hserved.pos, hserved.req⟩

/-! ### Frames end to end (rule R167) -/

theorem nextObject_window (cfg : Config) (b0 b1 b2 b3 : Byte) (src : List SrcAnswer) :
    nextObject cfg (.byte b0 :: .byte b1 :: .byte b2 :: .byte b3 :: src) =
      (scanFrom cfg ⟨b0, b1, b2, b3⟩ src).map (Found.after 4) := rfl

/-- A frame at the front of the source is what the scan finds, to its last byte. -/
theorem nextObject_frame {cfg : Config} {d : FrameDescriptor} {p : List Byte} (hlen : p.length = d.frameLength)
    (hp : StartsFrame cfg d p) (rest : List SrcAnswer) :
    nextObject cfg (p.map SrcAnswer.byte ++ rest) = some ⟨.frame d p, rest, p.length⟩ := by
  obtain ⟨b0, b1, b2, b3, q, rfl, hs, hd⟩ := startsFrame_iff.1 hp
  have hbody : d.frameLength - 4 = q.length := by
    rw [← hlen]
    rfl
  have hscan : scanFrom cfg ⟨b0, b1, b2, b3⟩ (q.map SrcAnswer.byte ++ rest) =
      some ⟨.frame d (b0 :: b1 :: b2 :: b3 :: q), rest, q.length⟩ := by
    rw [scanFrom_frame (w := ⟨b0, b1, b2, b3⟩) hs hd, finishObject, hbody, takeBytes_append]
    rfl
  refine (nextObject_window cfg b0 b1 b2 b3 (q.map SrcAnswer.byte ++ rest)).trans ?_
  rw [hscan, Option.map_some, Found.after, Nat.add_comm]
  rfl

/-- A SCAN request over a frame at the front of the source serves that frame. -/
theorem nextPassing_frame {cfg : Config} {d : FrameDescriptor} {p : List Byte} (hlen : p.length = d.frameLength)
    (hp : StartsFrame cfg d p) (rest : List SrcAnswer) :
    nextPassing cfg .any 1 (p.map SrcAnswer.byte ++ rest) = some ⟨.frame d p, rest, p.length⟩ := by
  rw [nextPassing, nextObject_frame hlen hp]
  rfl

/-- Settles O45, by the list of frames: each request takes one. -/
theorem backToBackFrames : Obligations.BackToBackFrames := by
  intro frames
  induction frames with
  | nil =>
    intro s reqs rest _ _ hst _ hsrc hreq _
    exact ⟨0, s, rfl, hst, hsrc, hreq, (List.append_nil _).symm, rfl⟩
  | cons x frames ih =>
    obtain ⟨d, p⟩ := x
    intro s reqs rest hc hr hst hframes hsrc hreq hack
    obtain ⟨⟨hlen, hp⟩, hrest⟩ := List.forall_mem_cons.1 hframes
    have hfound := nextPassing_frame hlen hp ((frames.map Prod.snd).flatten.map SrcAnswer.byte ++ rest)
    rw [← List.append_assoc, ← List.map_append, ← List.flatten_cons, ← List.map_cons (f := Prod.snd), ← hsrc] at hfound
    obtain ⟨u, hrun, hu⟩ := request_served hc hr hst hreq rfl (Nat.zero_lt_of_lt hack) hfound
    have hone : s.acks = u.acks + 1 := hu.acks
    have hacks : frames.length ≤ u.acks := Nat.le_of_succ_le_succ (Nat.le_trans hack hone.le)
    obtain ⟨k, t, hrun', hidle, hsrc', hreq', houts, hpos⟩ :=
      ih u reqs rest (hu.cfg ▸ hc) (hu.rst.trans hr) hu.idle (by rw [hu.cfg]; exact hrest) hu.src hu.req hacks
    obtain ⟨k', hall⟩ := hrun.trans ⟨k, hrun'⟩
    refine ⟨k', t, hall, hidle, hsrc', hreq', ?_, ?_⟩
    · rw [houts, hu.outs, List.append_assoc]
      rfl
    · rw [hpos, hu.pos, List.map_cons, List.sum_cons, Nat.add_assoc]

end Sys2Proof.Machine
end

section
/-!
Every accepted request ends in one emission (rules R165, R170): a measure of the answers of SRC and the control state
goes down at every step of a request, so the run is in IDLE again before it is used up.
-/

namespace Sys2Proof.Machine

/-- The steps that a control state may still take before SC reads a byte or emits. -/
def stepsBeforeRead : Ctl → Nat
  | .classify => 2
  | .done => 1
  | .eosr => 1
  | _ => 0

theorem stepsBeforeRead_le (c : Ctl) : stepsBeforeRead c ≤ 2 := by
  cases c <;> decide

/-- A bound on the steps of the request in progress: each answer of SRC pays for itself and for two steps more. -/
def stepBound (s : State) : Nat := 3 * s.src.length + stepsBeforeRead s.st

/-- The request in progress cannot wait for SRC: it has met the end of the stream, or `End` is to come. -/
def WillEnd (s : State) : Prop := s.st = .eosr ∨ .ended ∈ s.src

theorem WillEnd.ended_mem {s : State} (h : WillEnd s) (hst : s.st ≠ .eosr) : .ended ∈ s.src :=
  h.resolve_left hst

/-- A step that takes a byte leaves `End` to come. -/
theorem WillEnd.after_byte {s : State} {b : Byte} {rest : List SrcAnswer} (h : WillEnd s) (hst : s.st ≠ .eosr)
    (hsrc : s.src = .byte b :: rest) : .ended ∈ rest := by
  have hmem := h.ended_mem hst
  rw [hsrc] at hmem
  exact (List.mem_cons.1 hmem).resolve_left nofun

theorem stepBound_lt_of_answer {s t : State} {a : SrcAnswer} (hsrc : s.src = a :: t.src) :
    stepBound t < stepBound s := by
  have := stepsBeforeRead_le t.st
  rw [stepBound, stepBound, hsrc, List.length_cons]
  omega

theorem stepBound_lt_of_state {s t : State} (hsrc : t.src = s.src)
    (hlt : stepsBeforeRead t.st < stepsBeforeRead s.st) : stepBound t < stepBound s := by
  rw [stepBound, stepBound, hsrc]
  omega

theorem not_waiting {s : State} (hst : s.st ≠ .idle) (hack : 0 < s.acks) (hend : WillEnd s) : ¬ Waiting s := by
  rintro (⟨hidle, -⟩ | ⟨hreads, hsrc⟩ | ⟨hzero, -⟩)
  · exact hst hidle
  · have hmem := hend.ended_mem fun he => by simp [he, reads] at hreads
    simp [hsrc] at hmem
  · omega

section
variable {s t : State} (h : StepCase s t) (hst : s.st ≠ .idle) (hack : 0 < s.acks) (hend : WillEnd s)
include h hst hack hend

/-- No step of a request holds: the bound goes down. -/
theorem StepCase.stepBound_lt : stepBound t < stepBound s := by
  cases h with
  | holds hw => exact absurd hw (not_waiting hst hack hend)
  | accepted _ _ _ hidle => exact absurd hidle hst
  | ended _ _ hsrc | filled _ _ _ hsrc | shifted _ _ _ hsrc | header _ _ _ hsrc | headerDone _ _ _ _ _ _ hsrc
  | bodyByte _ _ _ hsrc => exact stepBound_lt_of_answer hsrc
  | tag hs | id3 hs | noMatch hs | emitted _ _ hs | discarded hs | reported _ hs =>
    exact stepBound_lt_of_state rfl (by simp [hs, stepsBeforeRead])
  | frame d hs =>
    refine stepBound_lt_of_state rfl ?_
    rw [hs]
    dsimp only
    split <;> decide

/-- A step of a request ends it, or it still will end. -/
theorem StepCase.willEnd : t.st = .idle ∨ WillEnd t := by
  cases h with
  | holds hw => exact absurd hw (not_waiting hst hack hend)
  | accepted _ _ _ hidle => exact absurd hidle hst
  | emitted | reported => exact .inl rfl
  | ended => exact .inr (.inl rfl)
  | filled _ _ hs hsrc | shifted _ _ hs hsrc | header _ _ hs hsrc | headerDone _ _ _ _ _ hs hsrc
  | bodyByte _ _ hs hsrc => exact .inr (.inr (hend.after_byte (by simp [hs]) hsrc))
  | tag hs | id3 hs | frame _ hs | noMatch hs | discarded hs => exact .inr (.inr (hend.ended_mem (by simp [hs])))

end

/-- The run of `k` steps from `s` to `t` ends in IDLE with one object more; before that SC is not in IDLE and has
emitted nothing. -/
def EmitsOnce (s t : State) (k : Nat) : Prop :=
  run k s = .next t ∧ t.st = .idle ∧ t.req = s.req ∧ (∃ o, t.outs = s.outs ++ [o]) ∧
    ∀ j u, j < k → run j s = .next u → u.st ≠ .idle ∧ u.outs = s.outs

/-- One step before a run that emits once. -/
theorem EmitsOnce.of_step {s u t : State} {k : Nat} (hstep : step s = .next u) (hst : s.st ≠ .idle)
    (hreq : u.req = s.req) (houts : u.outs = s.outs) (h : EmitsOnce u t k) : EmitsOnce s t (k + 1) := by
  obtain ⟨hrun, hidle, htreq, ⟨o, ho⟩, hbefore⟩ := h
  refine ⟨(run_step hstep).trans hrun, hidle, htreq.trans hreq, ⟨o, houts ▸ ho⟩, fun j v hj hv => ?_⟩
  cases j with
  | zero =>
    obtain rfl := Host.Outcome.next.inj hv
    exact ⟨hst, rfl⟩
  | succ j =>
    obtain ⟨hvst, hvouts⟩ := hbefore j v (Nat.lt_of_succ_lt_succ hj) ((run_step hstep).symm.trans hv)
    exact ⟨hvst, hvouts.trans houts⟩

/-- A request in progress that will end emits once within its bound. -/
theorem emitsOnce_of_willEnd {s : State} (hinv : Inv s) (hr : s.rst = []) (hst : s.st ≠ .idle) (hack : 0 < s.acks)
    (hend : WillEnd s) : ∃ k t, k ≤ stepBound s ∧ EmitsOnce s t k := by
  induction hbound : stepBound s using Nat.strong_induction_on generalizing s with
  | _ bound ih =>
  obtain ⟨u, hstep⟩ := (step_total hinv).resolve_right fun ⟨hidle, _⟩ => hst hidle
  obtain ⟨hcase, hru⟩ := stepCase_of_nil hr hstep
  have hlt := hcase.stepBound_lt hst hack hend
  have hreq := hcase.req_written hst
  rcases hcase.emission with ⟨houts, hacks, hidle⟩ | ⟨o, houts, -, -, hidle⟩
  · have hust : u.st ≠ .idle := fun hu => hst (hidle hu)
    obtain ⟨k, t, hk, ht⟩ := ih _ (hbound ▸ hlt) (stepKeepsInvariant s u hinv hstep) hru hust (hacks ▸ hack)
      ((hcase.willEnd hst hack hend).resolve_left hust) rfl
    exact ⟨k + 1, t, by omega, ht.of_step hstep hst hreq houts⟩
  · refine ⟨1, u, by omega, run_step hstep, hidle, hreq, ⟨o, houts⟩, fun j v hj hv => ?_⟩
    obtain rfl := Nat.lt_one_iff.1 hj
    obtain rfl := Host.Outcome.next.inj hv
    exact ⟨hst, rfl⟩

/-- Settles O43: ACCEPT starts a request that will end. -/
theorem everyRequestEndsInOneEmission : Obligations.EveryRequestEndsInOneEmission := by
  intro s c rest hinv hr hst hreq hc hack hend
  obtain ⟨m, hm⟩ := Option.ne_none_iff_exists'.1 (mt (modeOf_eq_none_iff c).1 hc)
  have hstep := step_of_scStep hinv.admissible hr (scStep_accept hst hreq hm)
  obtain ⟨k, t, hk, hrun, hidle, htreq, hout, hbefore⟩ :=
    emitsOnce_of_willEnd (stepKeepsInvariant s _ hinv hstep) hr nofun hack (.inr hend)
  refine ⟨k + 1, t, ?_, (run_step hstep).trans hrun, hidle, htreq, hout, fun j u hj hjk hu => ?_⟩
  · have hk : k ≤ 3 * s.src.length := hk
    omega
  · obtain ⟨j, rfl⟩ := Nat.exists_eq_succ_of_ne_zero hj.ne'
    exact hbefore j u (Nat.lt_of_succ_lt_succ hjk) ((run_step hstep).symm.trans hu)

end Sys2Proof.Machine
end

section
/-!
End-of-stream: when it is entered (rules R203, R204) and how it is reported (rule R205).
-/

namespace Sys2Proof.Machine

/-! ### Entry (rules R203, R204) -/

/-- Rule R203's "no other event raises end-of-stream", for the actions of SC. -/
theorem StepCase.eosr_entered {s t : State} (h : StepCase s t) (ht : t.st = .eosr) (hs : s.st ≠ .eosr) :
    reads s.st = true ∧ s.src = .ended :: t.src := by
  cases h with
  | ended _ hst hsrc => exact ⟨hst, hsrc⟩
  | holds => exact absurd ht hs
  | header _ _ hst => exact absurd (hst.symm.trans ht) (by decide)
  | accepted | tag | id3 | noMatch | shifted | emitted | discarded | reported => cases ht
  | frame | filled | headerDone | bodyByte =>
    dsimp only at ht
    split at ht <;> cases ht

/-- Settles O33: the entry by SRC's answer, the converse by the action of the step. -/
theorem endOfStreamEntry : Obligations.EndOfStreamEntry := by
  intro s hc hr
  simp only [← reads_iff]
  exact ⟨fun _ => step_read_ended hc hr, fun _ h => (stepCase_of_step h hr).eosr_entered⟩

/-! ### Report and return (rule R205) -/

/-- Settles O32, by whether CON accepts. -/
theorem eosrReportsEndOfStream : Obligations.EosrReportsEndOfStream := by
  intro s hc hr hst
  rw [step_running hc hr]
  exact ⟨scStep_report_waiting (s := sampleReset s) hst, fun _ => scStep_report (s := sampleReset s) hst⟩

end Sys2Proof.Machine
end

section
/-!
The admissible configurations are those of the five conditions of rule R233, each part of `Config.admissible` read back
as the condition it tests.
-/

namespace Sys2Proof.Machine

/-! ### The code maps are bijections (conditions 1 to 3) -/

/-- A map of codes, those that meet `p`, to at most as many values repeats none exactly where it is a bijection. -/
theorem nodup_map_iff_bijection {α β : Type} {p : α → Prop} {f : α → β} {codes : List α} {all : List β}
    (hcodes : codes.Nodup) (hp : ∀ c, c ∈ codes ↔ p c) (hall : ∀ x, x ∈ all) (hlen : all.length ≤ codes.length) :
    (codes.map f).Nodup ↔ (∀ c c', p c → p c' → f c = f c' → c = c') ∧ ∀ x, ∃ c, p c ∧ f c = x := by
  simp only [← hp, List.nodup_map_iff_inj_on hcodes]
  constructor
  · intro hinj
    have hnodup : (codes.map f).Nodup := (List.nodup_map_iff_inj_on hcodes).2 hinj
    have hperm : (codes.map f).Perm all := (hnodup.subperm fun x _ => hall x).perm_of_length_le (by simpa using hlen)
    exact ⟨fun c c' hc hc' => hinj c hc c' hc', fun x => List.mem_map.1 (hperm.mem_iff.2 (hall x))⟩
  · exact fun ⟨hinj, _⟩ c hc c' hc' => hinj c c' hc hc'

section
variable {cfg : Config}

theorem versionMap_nodup_iff : [cfg.versionMap.v00, cfg.versionMap.v10, cfg.versionMap.v11].Nodup ↔
    (∀ v v' : BitVec 2, v ≠ 0b01#2 → v' ≠ 0b01#2 → cfg.version v = cfg.version v' → v = v') ∧
      ∀ x, ∃ v : BitVec 2, v ≠ 0b01#2 ∧ cfg.version v = x :=
  nodup_map_iff_bijection (p := (· ≠ 0b01#2)) (f := cfg.version) (codes := [0b00#2, 0b10#2, 0b11#2]) (by decide)
    (by decide) mem_allVersions (by decide)

theorem layerMap_nodup_iff : [cfg.layerMap.l01, cfg.layerMap.l10, cfg.layerMap.l11].Nodup ↔
    (∀ l l' : BitVec 2, l ≠ 0b00#2 → l' ≠ 0b00#2 → cfg.layer l = cfg.layer l' → l = l') ∧
      ∀ x, ∃ l : BitVec 2, l ≠ 0b00#2 ∧ cfg.layer l = x :=
  nodup_map_iff_bijection (p := (· ≠ 0b00#2)) (f := cfg.layer) (codes := [0b01#2, 0b10#2, 0b11#2]) (by decide)
    (by decide) mem_allLayers (by decide)

theorem chmodeMap_nodup_iff :
    [cfg.chmodeMap.m00, cfg.chmodeMap.m01, cfg.chmodeMap.m10, cfg.chmodeMap.m11].Nodup ↔
      Function.Bijective cfg.channelMode := by
  have modes (x : ChannelMode) : x ∈ [ChannelMode.stereo, .jointStereo, .dualChannel, .mono] := by cases x <;> decide
  refine (nodup_map_iff_bijection (p := fun _ => True) (f := cfg.channelMode)
    (codes := [0b00#2, 0b01#2, 0b10#2, 0b11#2]) (by decide) (by decide) modes (by decide)).trans ?_
  simp only [true_imp_iff, true_and, Function.Bijective, Function.Injective, Function.Surjective]

theorem mapsOk_iff : cfg.mapsOk = true ↔
    ((∀ v v' : BitVec 2, v ≠ 0b01#2 → v' ≠ 0b01#2 → cfg.version v = cfg.version v' → v = v') ∧
      ∀ x, ∃ v : BitVec 2, v ≠ 0b01#2 ∧ cfg.version v = x) ∧
    ((∀ l l' : BitVec 2, l ≠ 0b00#2 → l' ≠ 0b00#2 → cfg.layer l = cfg.layer l' → l = l') ∧
      ∀ x, ∃ l : BitVec 2, l ≠ 0b00#2 ∧ cfg.layer l = x) ∧
    Function.Bijective cfg.channelMode := by
  rw [Config.mapsOk, decide_eq_true_iff, versionMap_nodup_iff, layerMap_nodup_iff, chmodeMap_nodup_iff]

/-! ### The table entries are positive (condition 4) -/

theorem entriesOk_iff : cfg.entriesOk = true ↔
    (∀ (fam : Family) (l : Layer), ∀ k ∈ (cfg.bitrateColumn fam l).toList, 0 < k) ∧
      ∀ v : Version, ∀ k ∈ (cfg.sampleRateColumn v).toList, 0 < k := by
  have families (fam : Family) : fam ∈ [Family.F1, .F2] := by cases fam <;> decide
  simp only [Config.entriesOk, Bool.and_eq_true, List.all_eq_true, decide_eq_true_eq, families, mem_allVersions,
    mem_allLayers, true_imp_iff]

/-! ### Every valid header gets a frame length of at least 4 (condition 5) -/

/-- The fields of a valid header with bitrate code `r`, sampling-rate code `f` and a given padding; the others are 0. -/
def tableFields (r : BitVec 4) (f : BitVec 2) (padded : Bool) : FrameFields :=
  ⟨0#1, r, f, BitVec.ofBool padded, 0#1, 0#2, 0#2, 0#1, 0#1, 0#2⟩

theorem tableFields_valid {r : BitVec 4} {f : BitVec 2} (padded : Bool) (hr : r ≠ 0#4 ∧ r ≠ 15#4) (hf : f ≠ 3#2) :
    (tableFields r f padded).valid cfg = true :=
  fields_valid_iff.2 ⟨hr.1, hr.2, hf, .inl rfl, (by decide : 0#2 ≠ 0b10#2)⟩

/-- Every entry of a bitrate column has a code (rule R104). -/
theorem exists_bitrate_code {column : Vector Nat 14} {kbps : Nat} (h : kbps ∈ column.toList) :
    ∃ r : BitVec 4, (r ≠ 0#4 ∧ r ≠ 15#4) ∧ column[r.toNat - 1]? = some kbps := by
  obtain ⟨i, hi, rfl⟩ := Vector.mem_iff_getElem.1 (Vector.mem_toList_iff.1 h)
  have hr : (BitVec.ofNat 4 (i + 1)).toNat = i + 1 := Nat.mod_eq_of_lt (by omega)
  exact ⟨BitVec.ofNat 4 (i + 1), (bitrate_index_iff _).2 (by omega), by simp [hr, hi]⟩

/-- Every entry of a sampling-rate column has a code (rule R105). -/
theorem exists_rate_code {column : Vector Nat 3} {hz : Nat} (h : hz ∈ column.toList) :
    ∃ f : BitVec 2, f ≠ 3#2 ∧ column[f.toNat]? = some hz := by
  obtain ⟨j, hj, rfl⟩ := Vector.mem_iff_getElem.1 (Vector.mem_toList_iff.1 h)
  have hf : (BitVec.ofNat 2 j).toNat = j := Nat.mod_eq_of_lt (by omega)
  exact ⟨BitVec.ofNat 2 j, (rate_index_iff _).2 (by omega), by simp [hf, hj]⟩

/-- HD computes the length of every pair of table entries: some header has their codes. -/
theorem exists_header_of_entries {v l : BitVec 2} {kbps hz : Nat} (hv : v ≠ 0b01#2) (hl : l ≠ 0b00#2)
    (hk : kbps ∈ (cfg.bitrateColumn (family (cfg.version v)) (cfg.layer l)).toList)
    (hs : hz ∈ (cfg.sampleRateColumn (cfg.version v)).toList) (padded : Bool) :
    ∃ h d, decodeHeader cfg h = .ok d ∧ d.frameLength =
      frameLength (sampleCount (cfg.version v) (cfg.layer l)) (kbps * 1000) hz
        (paddingBytes padded (cfg.layer l)) := by
  obtain ⟨r, hr, hkbps⟩ := exists_bitrate_code hk
  obtain ⟨f, hf, hhz⟩ := exists_rate_code hs
  obtain ⟨d, hd⟩ := decodeFields_isOk_iff.2 ⟨hv, hl, tableFields_valid (cfg := cfg) padded hr hf⟩
  refine ⟨frameWord v l (tableFields r f padded), d, (decodeHeader_frameWord ..).trans hd, ?_⟩
  obtain ⟨kbps', hz', hkbps', hhz', rfl⟩ := decodeFields_descriptor hd
  obtain rfl := Option.some.inj (hkbps.symm.trans hkbps')
  obtain rfl := Option.some.inj (hhz.symm.trans hhz')
  cases padded <;> rfl

theorem lengthsOk_iff {v : Version} {l : Layer} : cfg.lengthsOk v l = true ↔
    ∀ kbps ∈ (cfg.bitrateColumn (family v) l).toList, ∀ hz ∈ (cfg.sampleRateColumn v).toList, ∀ padded,
      4 ≤ frameLength (sampleCount v l) (kbps * 1000) hz (paddingBytes padded l) := by
  have paddings (padded : Bool) : padded ∈ [false, true] := by cases padded <;> decide
  simp only [Config.lengthsOk, List.all_eq_true, decide_eq_true_eq, paddings, true_imp_iff]

theorem admissible_iff : cfg.admissible = true ↔
    cfg.mapsOk = true ∧ cfg.entriesOk = true ∧ ∀ v l, cfg.lengthsOk v l = true := by
  simp only [Config.admissible, Bool.and_eq_true, List.all_eq_true, mem_allVersions, mem_allLayers, true_imp_iff,
    and_assoc]

/-- Where codes stand for every version and layer, condition 5 for headers is condition 5 for table entries. -/
theorem lengthsOk_of_headers (hversion : ∀ x, ∃ v : BitVec 2, v ≠ 0b01#2 ∧ cfg.version v = x)
    (hlayer : ∀ x, ∃ l : BitVec 2, l ≠ 0b00#2 ∧ cfg.layer l = x)
    (h : ∀ (w : HeaderWord) (d : FrameDescriptor), decodeHeader cfg w = .ok d → 4 ≤ d.frameLength) (x : Version)
    (y : Layer) : cfg.lengthsOk x y = true := by
  obtain ⟨v, hv, rfl⟩ := hversion x
  obtain ⟨l, hl, rfl⟩ := hlayer y
  refine lengthsOk_iff.2 fun kbps hk hz hs padded => ?_
  obtain ⟨w, d, hd, hlength⟩ := exists_header_of_entries hv hl hk hs padded
  exact hlength ▸ h w d hd

end

/-- Settles O3: conditions 1 to 4 by the tests of `Config.admissible`; condition 5 by a header for each pair of table
entries. -/
theorem configurationAdmissibility : Obligations.ConfigurationAdmissibility := by
  refine ⟨fun cfg => ⟨fun h => ?_, fun ⟨hversion, hlayer, hmode, hentries, hlengths⟩ => ?_⟩,
    config_default_admissible, fun s => step_inadmissible⟩
  · obtain ⟨hmaps, hentries, -⟩ := admissible_iff.1 h
    obtain ⟨hversion, hlayer, hmode⟩ := mapsOk_iff.1 hmaps
    exact ⟨hversion, hlayer, hmode, entriesOk_iff.1 hentries, fun w d => four_le_frameLength h⟩
  · exact admissible_iff.2 ⟨mapsOk_iff.2 ⟨hversion, hlayer, hmode⟩, entriesOk_iff.2 hentries,
      lengthsOk_of_headers hversion.2 hlayer.2 hlengths⟩

end Sys2Proof.Machine
end

section
/-!
Reset: the step and the edge that take it, and the channels while it is asserted (rule R230).
-/

namespace Sys2Proof.Machine

/-- The reset registers are those of `State.reset`; what belongs to SRC, CON and the configuration stays. -/
theorem resetRegs_eq (s : State) : resetRegs s =
    { State.reset with cfg := s.cfg, src := s.src, req := s.req, acks := s.acks, rst := s.rst } := rfl

theorem resetNow_of_head {s : State} (h : s.rst.head? = some true) : resetNow s = true := by
  rw [resetNow, h]
  rfl

/-- While `rst = 1` no channel transfers, whatever SC's state. -/
theorem outputs_reset {i : PortIn} (hr : i.rst = true) (p : PortState) :
    (outputs i p).reqReady = false ∧ (outputs i p).srcReq = false ∧ (outputs i p).payValid = false ∧
      (outputs i p).objValid = false := by
  simp [outputs, reqReady, srcReq, payValid, objValid, hr]

/-- Settles O2: the reset step by `resetRegs`, the edge by the reset edge, the ports by their `rst` term. -/
theorem resetStepReloadsRegistersAndStopsTransfers : Obligations.ResetStepReloadsRegistersAndStopsTransfers := by
  refine ⟨fun s hc hr => ?_, fun i p hc hr => congrArg PortState.sc (edge_reset hc hr),
    fun i p hr => outputs_reset hr p⟩
  exact (step_reset hc (resetNow_of_head hr)).trans (congrArg Host.Outcome.next (resetRegs_eq _))

end Sys2Proof.Machine
end
